-- ==== Sys2Proof/Word.lean ====
section
/-! DEFINITION. The number types of the machine: bytes, 16-bit words, the 12-bit address field, the 4-bit height field, and
register numbers (spec/00_scope.md R9, R11; spec/30_encoding.md R92). -/

namespace Sys2Proof

/-- One byte: a memory cell, a V register, a timer, an immediate NN (R9, R21, R27). -/
abbrev Byte := BitVec 8

/-- Sixteen bits: an instruction word, `pc`, `I`, a return address (R9, R25, R29, R32, R92). -/
abbrev Word := BitVec 16

/-- The address field NNN, the low 12 bits of an instruction word (R92). -/
abbrev AddrField := BitVec 12

/-- The height field N of DRW, 0 to 15 (R92, R94). -/
abbrev Height := BitVec 4

/-- The number of a general register, V0 to VF: all 16 values of an X or Y field are legal (R21). -/
abbrev Reg := Fin 16

/-- VF, the register that doubles as the flag output (R22). -/
abbrev vf : Reg := 15

end Sys2Proof
end

