-- ==== Sys2Proof/Config.lean ====
section
/-! DEFINITION. The sizes the spec fixes (spec/00_scope.md R9), the parameter FONT and its default (R10,
spec/70_reset_and_hazards.md R221), and the free values the spec leaves open (R10): constants with no body, so that nothing can be proved of what they are. -/

namespace Sys2Proof.Config

/-- MEM_SIZE: 4096 bytes of memory, addresses 0x000 to 0xFFF (R9, R63). -/
abbrev memSize : Nat := 0x1000

/-- PROG_BASE: the load address and the value of `pc` at reset (R9, R70). -/
abbrev progBase : Nat := 0x200

/-- MAX_PROG: the largest program, 4096 - 0x200 = 3584 bytes (R9, R223). -/
abbrev maxProg : Nat := 3584

/-- FONT_BASE: the font occupies 0x050 to 0x09F (R9, R70). -/
abbrev fontBase : Nat := 0x050

/-- FONT_LEN: 80 bytes, five for each of 16 glyphs (R9, R221). -/
abbrev fontLen : Nat := 80

/-- STACK_DEPTH: 16 frames (R9, R32). -/
abbrev stackDepth : Nat := 16

/-- The glyphs 0 to 7, five bytes each, top row first (R221). -/
def fontLow : List Byte :=
  [0xF0, 0x90, 0x90, 0x90, 0xF0] ++ [0x20, 0x60, 0x20, 0x20, 0x70] ++
  [0xF0, 0x10, 0xF0, 0x80, 0xF0] ++ [0xF0, 0x10, 0xF0, 0x10, 0xF0] ++
  [0x90, 0x90, 0xF0, 0x10, 0x10] ++ [0xF0, 0x80, 0xF0, 0x10, 0xF0] ++
  [0xF0, 0x80, 0xF0, 0x90, 0xF0] ++ [0xF0, 0x10, 0x20, 0x40, 0x40]

/-- The glyphs 8 to F (R221). -/
def fontHigh : List Byte :=
  [0xF0, 0x90, 0xF0, 0x90, 0xF0] ++ [0xF0, 0x90, 0xF0, 0x10, 0xF0] ++
  [0xF0, 0x90, 0xF0, 0x90, 0x90] ++ [0xE0, 0x90, 0xE0, 0x90, 0xE0] ++
  [0xF0, 0x80, 0x80, 0x80, 0xF0] ++ [0xE0, 0x90, 0x90, 0x90, 0xE0] ++
  [0xF0, 0x80, 0xF0, 0x80, 0xF0] ++ [0xF0, 0x80, 0xF0, 0x80, 0x80]

/-- A value of the parameter FONT: 80 bytes (R10). -/
abbrev Font : Type := Vector Byte 80

/-- The default value of FONT: the spec's table (R221). FONT is a parameter of the machine (R10, spec/92_eei_decisions.md D12),
held in State.font; this is the value State.reset gives it.
UNVERIFIED (log entry 4), unsafe for claims about State.reset alone: the spec states these bytes from general knowledge. -/
def defaultFont : Font := ⟨(fontLow ++ fontHigh).toArray, rfl⟩

/-- FONT[j], for `j` below 80. -/
def fontByte (font : Font) (j : Nat) : Byte := if h : j < 80 then font[j] else 0

/-- The random byte of the `k`-th draw of the stream `p`, RND's `draw8()`: a free value (R161, spec/92_eei_decisions.md D11).
Instances have streams of their own (R201). DESIGN CHOICE (log entry 1), safe: nothing constrains it. -/
opaque randomByte : (p k : Nat) → Byte

/-- The keypad a `reset` command leaves, for the `k`-th draw of the stream `p`: any 16 booleans, a free value (R38, R220, D9).
DESIGN CHOICE (log entry 3), safe. -/
opaque resetKeypad : (p k : Nat) → Vector Bool 16

/-- The draw flag a `reset` command leaves, for the `k`-th draw of the stream `p`: either boolean, a free value (R38, R220, D9).
DESIGN CHOICE (log entry 3), safe. -/
opaque resetDrawFlag : (p k : Nat) → Bool

end Sys2Proof.Config
end

