-- ==== Sys2Proof/Syntax.lean ====
section
/-! DEFINITION. The instructions: one constructor per row of spec/opcode_table.json, in the table's order
(spec/30_encoding.md R96). The types of the operands admit exactly the values the fields can hold (R94, R101). -/

namespace Sys2Proof

/-- The 18 instructions (R96). SHR and SHL keep the Y field, which the hardware ignores, so that a decoded word can be
encoded back to itself (spec/93_implementation_defined.md U14). -/
inductive Instr where
  /-- CLS, 00E0: clear screen (R120). -/
  | cls
  /-- RET, 00EE: return (R121). -/
  | ret
  /-- JP addr, 1NNN (R122). -/
  | jp (nnn : AddrField)
  /-- CALL addr, 2NNN (R123). -/
  | call (nnn : AddrField)
  /-- LD Vx, byte, 6XNN (R130). -/
  | ldByte (x : Reg) (nn : Byte)
  /-- ADD Vx, byte, 7XNN (R131). -/
  | addByte (x : Reg) (nn : Byte)
  /-- LD Vx, Vy, 8XY0 (R140). -/
  | ldReg (x y : Reg)
  /-- OR Vx, Vy, 8XY1 (R141). -/
  | orReg (x y : Reg)
  /-- AND Vx, Vy, 8XY2 (R142). -/
  | andReg (x y : Reg)
  /-- XOR Vx, Vy, 8XY3 (R143). -/
  | xorReg (x y : Reg)
  /-- ADD Vx, Vy, 8XY4 (R144). -/
  | addReg (x y : Reg)
  /-- SUB Vx, Vy, 8XY5 (R145). -/
  | sub (x y : Reg)
  /-- SHR Vx, 8XY6; the Y field is ignored (R146). -/
  | shr (x y : Reg)
  /-- SUBN Vx, Vy, 8XY7 (R147). -/
  | subn (x y : Reg)
  /-- SHL Vx, 8XYE; the Y field is ignored (R148). -/
  | shl (x y : Reg)
  /-- LD I, addr, ANNN (R160). -/
  | ldI (nnn : AddrField)
  /-- RND Vx, byte, CXNN (R161). -/
  | rnd (x : Reg) (nn : Byte)
  /-- DRW Vx, Vy, n, DXYN (R170). -/
  | drw (x y : Reg) (n : Height)
  deriving DecidableEq, Repr

end Sys2Proof
end

