-- ==== Sys2Proof/WellFormed.lean ====
section
/-! DEFINITION. What the types leave to check. An instruction needs no check: "every bit that is not a fixed bit is an operand
bit with all values legal" (spec/30_encoding.md R101), and Syntax.lean's operand types hold exactly those values. The argument
of `load program` does need one (spec/70_reset_and_hazards.md R223, R224). (The canonical form of a memory is Memory.wf in
Machine/Ops.lean; the invariants of a state are State.Inv in Safety.lean.) -/

namespace Sys2Proof

/-- A byte sequence `load program` accepts: at most 3584 bytes, the empty one included (R223). -/
def programFits (bytes : List Byte) : Bool :=
  decide (bytes.length ≤ Config.maxProg)

end Sys2Proof
end

