-- ==== Sys2Proof/Decode.lean ====
section
/-! DEFINITION. The decoder, from an instruction word and from bytes, and the encoder (spec/30_encoding.md R91 to R102).
The opcode numbers are the spec's (R96), which it states from general knowledge: UNVERIFIED (log entry 5), unsafe. -/

namespace Sys2Proof

/-- Why bytes are no instruction. -/
inductive DecodeError where
  /-- The word matches no row of the opcode map (R99). -/
  | unknownOpcode (w : Word)
  /-- Fewer than the two bytes of a word are there (R102). -/
  | truncated (bytes : List Byte)
  deriving DecidableEq, Repr

/-- OP = w[15:12], the primary opcode (R92). -/
def fieldOP (w : Word) : BitVec 4 := w.extractLsb' 12 4

/-- X = w[11:8], a register number (R92). -/
def fieldX (w : Word) : Reg := (w.extractLsb' 8 4).toFin

/-- Y = w[7:4], a register number (R92). -/
def fieldY (w : Word) : Reg := (w.extractLsb' 4 4).toFin

/-- N = w[3:0], the sub-opcode or the sprite height (R92). -/
def fieldN (w : Word) : Height := w.extractLsb' 0 4

/-- NN = w[7:0], the immediate byte (R92). -/
def fieldNN (w : Word) : Byte := w.extractLsb' 0 8

/-- NNN = w[11:0], the address field (R92). -/
def fieldNNN (w : Word) : AddrField := w.extractLsb' 0 12

/-- The OP = 0 family: the whole word selects (R97). -/
def decodeZero (w : Word) : Option Instr :=
  if w = 0x00E0#16 then some .cls
  else if w = 0x00EE#16 then some .ret
  else none

/-- The OP = 8 family: N alone selects, X and Y are operands (R98). -/
def decodeEight (w : Word) : Option Instr :=
  let x := fieldX w
  let y := fieldY w
  match fieldN w with
  | 0x0#4 => some (.ldReg x y)
  | 0x1#4 => some (.orReg x y)
  | 0x2#4 => some (.andReg x y)
  | 0x3#4 => some (.xorReg x y)
  | 0x4#4 => some (.addReg x y)
  | 0x5#4 => some (.sub x y)
  | 0x6#4 => some (.shr x y)
  | 0x7#4 => some (.subn x y)
  | 0xE#4 => some (.shl x y)
  | _ => none

/-- The instruction a word is, or none (R95, R96). -/
def decodeWord (w : Word) : Option Instr :=
  match fieldOP w with
  | 0x0#4 => decodeZero w
  | 0x1#4 => some (.jp (fieldNNN w))
  | 0x2#4 => some (.call (fieldNNN w))
  | 0x6#4 => some (.ldByte (fieldX w) (fieldNN w))
  | 0x7#4 => some (.addByte (fieldX w) (fieldNN w))
  | 0x8#4 => decodeEight w
  | 0xA#4 => some (.ldI (fieldNNN w))
  | 0xC#4 => some (.rnd (fieldX w) (fieldNN w))
  | 0xD#4 => some (.drw (fieldX w) (fieldY w) (fieldN w))
  | _ => none

/-- The word two fetched bytes form: `(high << 8) | low`, the lower address holding the high byte (R67, R91). -/
def wordOfBytes (hi lo : Byte) : Word := hi ++ lo

/-- The high byte of a word, which lies at the lower address (R67). -/
def highByte (w : Word) : Byte := w.extractLsb' 8 8

/-- The low byte of a word (R67). -/
def lowByte (w : Word) : Byte := w.extractLsb' 0 8

/-- The instruction at the head of a byte sequence, and the bytes after it (R91, R102). Total on any bytes; what is no
instruction is rejected by name. -/
def decode : List Byte → Except DecodeError (Instr × List Byte)
  | hi :: lo :: rest =>
    match decodeWord (wordOfBytes hi lo) with
    | some i => .ok (i, rest)
    | none => .error (.unknownOpcode (wordOfBytes hi lo))
  | bytes => .error (.truncated bytes)

/-- The instruction the decoder reads from a word numbered as spec/opcode_table.json numbers it: `nbits` bits of `w`, the
bits above them 0, laid out big-endian and given to `decode` (R67). -/
def decodeTableWord (nbits w : Nat) : Option Instr :=
  let word := BitVec.ofNat 16 (w % 2 ^ nbits)
  match decode [highByte word, lowByte word] with
  | .ok (i, _) => some i
  | .error _ => none

/-- The four bits of a register number (R92). -/
def regBits (x : Reg) : BitVec 4 := BitVec.ofFin x

/-- Format A: OP, NNN (R93). -/
def formatA (op : BitVec 4) (nnn : AddrField) : Word := op ++ nnn

/-- Format I: OP, X, NN (R93). -/
def formatI (op : BitVec 4) (x : Reg) (nn : Byte) : Word := op ++ (regBits x ++ nn)

/-- Formats R and D: OP, X, Y, N (R93). -/
def formatR (op : BitVec 4) (x y : Reg) (n : BitVec 4) : Word := op ++ (regBits x ++ (regBits y ++ n))

/-- The word of an instruction, by the patterns of R96. SHR and SHL carry their Y field. -/
def encode : Instr → Word
  | .cls => 0x00E0#16
  | .ret => 0x00EE#16
  | .jp nnn => formatA 0x1#4 nnn
  | .call nnn => formatA 0x2#4 nnn
  | .ldByte x nn => formatI 0x6#4 x nn
  | .addByte x nn => formatI 0x7#4 x nn
  | .ldReg x y => formatR 0x8#4 x y 0x0#4
  | .orReg x y => formatR 0x8#4 x y 0x1#4
  | .andReg x y => formatR 0x8#4 x y 0x2#4
  | .xorReg x y => formatR 0x8#4 x y 0x3#4
  | .addReg x y => formatR 0x8#4 x y 0x4#4
  | .sub x y => formatR 0x8#4 x y 0x5#4
  | .shr x y => formatR 0x8#4 x y 0x6#4
  | .subn x y => formatR 0x8#4 x y 0x7#4
  | .shl x y => formatR 0x8#4 x y 0xE#4
  | .ldI nnn => formatA 0xA#4 nnn
  | .rnd x nn => formatI 0xC#4 x nn
  | .drw x y n => formatR 0xD#4 x y n

/-- The two bytes of an instruction as they lie in memory (R67, R104's `DW`). -/
def encodeBytes (i : Instr) : List Byte := [highByte (encode i), lowByte (encode i)]

/-- The mask of an instruction's row: its fixed bits (R96). -/
def encodingMask : Instr → Word
  | .cls | .ret => 0xFFFF#16
  | .jp _ | .call _ | .ldByte _ _ | .addByte _ _ | .ldI _ | .rnd _ _ | .drw _ _ _ => 0xF000#16
  | .ldReg _ _ | .orReg _ _ | .andReg _ _ | .xorReg _ _ | .addReg _ _ | .sub _ _ | .shr _ _ | .subn _ _ | .shl _ _ =>
    0xF00F#16

/-- The value of the fixed bits of an instruction's row, the column "match" (R96). -/
def encodingMatch : Instr → Word
  | .cls => 0x00E0#16
  | .ret => 0x00EE#16
  | .jp _ => 0x1000#16
  | .call _ => 0x2000#16
  | .ldByte _ _ => 0x6000#16
  | .addByte _ _ => 0x7000#16
  | .ldReg _ _ => 0x8000#16
  | .orReg _ _ => 0x8001#16
  | .andReg _ _ => 0x8002#16
  | .xorReg _ _ => 0x8003#16
  | .addReg _ _ => 0x8004#16
  | .sub _ _ => 0x8005#16
  | .shr _ _ => 0x8006#16
  | .subn _ _ => 0x8007#16
  | .shl _ _ => 0x800E#16
  | .ldI _ => 0xA000#16
  | .rnd _ _ => 0xC000#16
  | .drw _ _ _ => 0xD000#16

/-- The opcode map of R96 as (mask, match) pairs, one per row, in the table's order. -/
def opcodeMap : List (Word × Word) :=
  [(0xFFFF, 0x00E0), (0xFFFF, 0x00EE), (0xF000, 0x1000), (0xF000, 0x2000), (0xF000, 0x6000), (0xF000, 0x7000)] ++
  [(0xF00F, 0x8000), (0xF00F, 0x8001), (0xF00F, 0x8002), (0xF00F, 0x8003), (0xF00F, 0x8004), (0xF00F, 0x8005)] ++
  [(0xF00F, 0x8006), (0xF00F, 0x8007), (0xF00F, 0x800E), (0xF000, 0xA000), (0xF000, 0xC000), (0xF000, 0xD000)]

end Sys2Proof
end

