-- ==== Sys2Proof/Machine/State.lean ====
section
/-! DEFINITION. The state of the machine (spec/10_state.md R20), the ways a step can stop, what a step reports, and the state
after reset (R38). -/

namespace Sys2Proof.Machine

/-- Why the machine stops. Both are fatal: only `reset` revives the machine (spec/60_exceptions.md R183, R184). -/
inductive Fault where
  /-- FetchOutOfBounds: raised by `step` when it begins with `pc > 0xFFE` (R183). Log entry 8, safe: the machine stops where
  the hardware might go on. -/
  | fetchOutOfBounds (pc : Word)
  /-- DataOutOfBounds: raised by DRW at the first sprite row whose address is above 0xFFF (R66, R184). Log entry 9, safe:
  the machine stops where the hardware might go on. -/
  | dataOutOfBounds (a : Nat)
  deriving DecidableEq, Repr

/-- Why a step gives an instruction no meaning. -/
inductive Refusal where
  /-- Raised by an arm of `exec` whose instruction has no meaning yet; safe. No arm does: all 18 instructions are modelled. -/
  | notModelled (mnemonic : String)
  deriving DecidableEq, Repr

/-- The non-fatal results of a step, "{Ok, UnknownOpcode(code)}" (R180). -/
inductive Report where
  /-- The word was an instruction and it executed, a silent no-op RET or CALL included (R180, R182). -/
  | ok
  /-- The word matches no instruction; it carries the whole word (R99, R181). -/
  | unknownOpcode (w : Word)
  deriving DecidableEq, Repr

/-- Main memory as (address, byte) pairs in canonical form (Memory.wf in Machine/Ops.lean): addresses rising, below 4096, no
entry equal to what an unlisted address reads as. Log entry 15. -/
abbrev Memory := List Host.Cell

/-- The display buffer: 2048 one-bit cells, as 32 rows of 64 bits; cell `(x, y)`, of index `x + 64*y`, is bit `x` of row `y`
(R33, R61). Log entry 16. -/
abbrev Display := Vector (BitVec 64) 32

/-- The display with every cell 0. -/
def Display.blank : Display := Vector.replicate 32 0

/-- The Machine State (R20): its eleven parts; the parameter FONT; and three fields of the model's own (`stream`, `draws`,
`report`). -/
structure State where
  /-- V0 to VF (R21); VF is register 15 (R22). -/
  v : Vector Byte 16
  /-- The index register I, held in 16 bits (R25). -/
  i : Word
  /-- The program counter: the address of the next instruction word (R29). -/
  pc : Word
  /-- The call stack's slots; the live frames are those below `sp`, oldest first (R32). Log entry 13. -/
  stack : Vector Word 16
  /-- The stack pointer, 0 to 16, the number of live frames (R26). -/
  sp : Fin 17
  /-- The display buffer (R33). -/
  display : Display
  /-- The keypad, written by the host, read by no instruction (R34). -/
  keypad : Vector Bool 16
  /-- The delay timer DT (R27). -/
  dt : Byte
  /-- The sound timer ST (R27). -/
  st : Byte
  /-- The draw flag, set by CLS and DRW, cleared by the host (R28). -/
  drawFlag : Bool
  /-- Main memory, 4096 bytes (R63). -/
  mem : Memory
  /-- The parameter FONT of this machine (R10), a constant: no command writes it, and only `reset` installs it in memory.
  Log entry 23. -/
  font : Config.Font
  /-- THE MODEL'S OWN: which stream this machine's free values are drawn from; instances have streams of their own (R201), and
  no command writes it. Log entry 1. -/
  stream : Nat
  /-- THE MODEL'S OWN: how many free values have been drawn from the stream. Log entry 1. -/
  draws : Nat
  /-- THE MODEL'S OWN: what the last step returned, none before the first (R180). Log entry 7. -/
  report : Option Report
  deriving DecidableEq, Repr

/-- The machine right after reset (R38, R220), with nothing loaded. The keypad and the draw flag, which the spec leaves
unspecified, are false: DESIGN CHOICE (log entry 2), unsafe. FONT is its default: UNVERIFIED (log entry 4), unsafe. `stream` 0,
`draws` 0 and `report` none: DESIGN CHOICE (log entries 1, 7). -/
def State.reset : State where
  v := Vector.replicate 16 0
  i := 0
  pc := 0x200
  stack := Vector.replicate 16 0
  sp := 0
  display := Display.blank
  keypad := Vector.replicate 16 false
  dt := 0
  st := 0
  drawFlag := false
  mem := []
  font := Config.defaultFont
  stream := 0
  draws := 0
  report := none

end Sys2Proof.Machine
end

