-- ==== Sys2Proof/Machine/Ops.lean ====
section
/-! DEFINITION. The named operations over memory, registers, the call stack, the display and the outcome of a step. This
hardware has no trap entry and no return from one (spec/60_exceptions.md R188, R189): its one "illegal instruction" event is
the UnknownOpcode report, `State.reportUnknown`. -/

namespace Sys2Proof.Machine

/-! ### Main memory (spec/20_memory.md) -/

/-- What an unlisted address reads as: the contents after `reset`, FONT at 0x050 to 0x09F and 0x00 elsewhere (R38, R70). -/
def Memory.initial (font : Config.Font) (a : Nat) : Byte :=
  if Config.fontBase ≤ a ∧ a < Config.fontBase + Config.fontLen then Config.fontByte font (a - Config.fontBase) else 0

/-- The byte held for address `a`. -/
def Memory.lookup (font : Config.Font) : Memory → Nat → Byte
  | [], a => Memory.initial font a
  | (k, b) :: rest, a => if k = a then b else Memory.lookup font rest a

/-- `MemRead(a, 1)`: the byte at `a`, or none when `a > 0xFFF`, a bounds violation (R11, R65, R66). -/
def Memory.read (font : Config.Font) (m : Memory) (a : Nat) : Option Byte :=
  if a < Config.memSize then some (m.lookup font a) else none

/-- Sets the byte held for `a`, keeping the canonical form. -/
def Memory.put (font : Config.Font) : Memory → Nat → Byte → Memory
  | [], a, b => if b = Memory.initial font a then [] else [(a, b)]
  | (k, c) :: rest, a, b =>
    if a < k then
      if b = Memory.initial font a then (k, c) :: rest else (a, b) :: (k, c) :: rest
    else if a = k then
      if b = Memory.initial font a then rest else (a, b) :: rest
    else (k, c) :: Memory.put font rest a b

/-- `MemWrite(a, 1, b)`: sets `mem[a]`; an address above 0xFFF names no cell, and no command writes there (R11, R64, R65). -/
def Memory.write (font : Config.Font) (m : Memory) (a : Nat) (b : Byte) : Memory :=
  if a < Config.memSize then m.put font a b else m

/-- Writes a byte sequence from address `a` up. -/
def Memory.writeBytes (font : Config.Font) : Memory → Nat → List Byte → Memory
  | m, _, [] => m
  | m, a, b :: rest => Memory.writeBytes font (m.write font a b) (a + 1) rest

/-- The canonical form: addresses strictly rising and below 4096, and no entry equal to what an unlisted address reads as. -/
abbrev Memory.wf (font : Config.Font) (m : Memory) : Prop :=
  m.Pairwise (fun c d => c.1 < d.1) ∧ ∀ c ∈ m, c.1 < Config.memSize ∧ c.2 ≠ Memory.initial font c.1

/-- The canonical form of a state's memory, for the FONT of that state. -/
abbrev State.MemWf (s : State) : Prop := s.mem.wf s.font

/-- The byte of memory at `a` in a state. -/
def State.readByte (s : State) (a : Nat) : Option Byte := s.mem.read s.font a

/-! ### Registers (spec/10_state.md) -/

/-- The read `V[x]` (R21). -/
def State.getV (s : State) (x : Reg) : Byte := s.v[x.val]

/-- The write `V[x] <- b` (R21). -/
def State.setV (s : State) (x : Reg) (b : Byte) : State := { s with v := s.v.set x.val b }

/-- The fixed order of a flag-writing instruction: VF first, the result second, so that with `x` = 15 the result is what VF
holds at the end (R24). DEDUCED (log entry 11), unsafe. -/
def State.writeFlagThenResult (s : State) (x : Reg) (flag result : Byte) : State :=
  (s.setV vf flag).setV x result

/-- `pc <- a`. -/
def State.setPc (s : State) (a : Word) : State := { s with pc := a }

/-- `I <- a`. -/
def State.setI (s : State) (a : Word) : State := { s with i := a }

/-- The random byte of this step and the state after drawing it (R161). -/
def State.draw8 (s : State) : Byte × State := (Config.randomByte s.stream s.draws, { s with draws := s.draws + 1 })

/-! ### The call stack (spec/10_state.md R32) -/

/-- `push(v)` when `sp < 16`; none when the stack is full. -/
def State.push (s : State) (a : Word) : Option State :=
  if h : s.sp.val < 16 then
    some { s with stack := s.stack.set s.sp.val a, sp := ⟨s.sp.val + 1, by omega⟩ }
  else none

/-- `pop()` when `sp > 0`: the popped address and the state after; the slot keeps its value. None when the stack is empty. -/
def State.pop (s : State) : Option (Word × State) :=
  if h : 0 < s.sp.val then
    some (s.stack[s.sp.val - 1], { s with sp := ⟨s.sp.val - 1, by omega⟩ })
  else none

/-! ### The display buffer (spec/10_state.md R33, spec/20_memory.md R61) -/

/-- The index of cell `(x, y)`: row-major, `x + 64*y`. -/
def cellIndex (x y : Nat) : Nat := x + 64 * y

/-- The cell `display[k]`: true is 1 (on). -/
def Display.cell (d : Display) (k : Nat) : Bool :=
  if h : k / 64 < 32 then d[k / 64].getLsbD (k % 64) else false

/-- `display[k] <- display[k] ^ 1` (R174). -/
def Display.toggle (d : Display) (k : Nat) : Display :=
  if h : k / 64 < 32 then d.set (k / 64) (d[k / 64] ^^^ BitVec.twoPow 64 (k % 64)) else d

/-- `draw_flag <- true` (R28). -/
def State.setDrawFlag (s : State) : State := { s with drawFlag := true }

/-! ### Fetch and the outcome of a step (spec/30_encoding.md R90, R91, R99) -/

/-- The word at `pc`, big-endian; none when `pc > 0xFFE`, so that `pc` or `pc + 1` is above 0xFFF (R67, R90, R183). -/
def State.fetchWord (s : State) : Option Word :=
  match s.readByte s.pc.toNat, s.readByte (s.pc.toNat + 1) with
  | some hi, some lo => some (wordOfBytes hi lo)
  | _, _ => none

/-- `pc <- pc + 2`, before decode (R91). -/
def State.advance (s : State) : State := s.setPc (s.pc + 2)

/-- What the step returns to its caller, `Ok` (R90, R180). -/
def State.reportOk (s : State) : State := { s with report := some .ok }

/-- The UnknownOpcode event: the word is reported, nothing else changes (R99, R181). -/
def State.reportUnknown (s : State) (w : Word) : State := { s with report := some (.unknownOpcode w) }

/-- Places a word in memory at `a`, big-endian (R67). -/
def Memory.writeWord (font : Config.Font) (m : Memory) (a : Nat) (w : Word) : Memory :=
  (m.write font a (highByte w)).write font (a + 1) (lowByte w)

end Sys2Proof.Machine
end

