-- ==== Sys2Proof/Machine/Flags.lean ====
section
/-! DEFINITION. The flag computations and the arithmetic results, from the operands alone (spec/10_state.md R23, R24;
spec/42_alu.md R144 to R150). All values are unsigned; results are exact integers narrowed to 8 bits (R149). -/

namespace Sys2Proof.Machine

/-- A flag is exactly 0x00 or 0x01 (R23). -/
def flagByte (c : Bool) : Byte := if c then 1 else 0

/-- ADD's flag: the sum, not truncated, is greater than 255 (R144). -/
def carryOut (a b : Byte) : Byte := flagByte (decide (a.toNat + b.toNat > 255))

/-- SUB's flag on `a`, `b`, and SUBN's on `b`, `a`: strictly greater; equal operands give 0 (R145, R147).
DEDUCED (log entry 12), unsafe. -/
def strictlyGreater (a b : Byte) : Byte := flagByte (decide (a.toNat > b.toNat))

/-- SHR's flag: bit 0, the bit shifted out (R146). -/
def lowBit (a : Byte) : Byte := flagByte (a.getLsbD 0)

/-- SHL's flag: bit 7, the bit shifted out (R148). -/
def highBit (a : Byte) : Byte := flagByte (a.getLsbD 7)

/-- `(a + b) mod 256` (R131, R144). -/
def wrapSum (a b : Byte) : Byte := BitVec.ofNat 8 (a.toNat + b.toNat)

/-- `(a - b) mod 256` (R145, R147). -/
def wrapDiff (a b : Byte) : Byte := BitVec.ofInt 8 ((a.toNat : Int) - (b.toNat : Int))

/-- `a >> 1`: logical, by one place (R146). -/
def shiftRight1 (a : Byte) : Byte := BitVec.ofNat 8 (a.toNat / 2)

/-- `(a << 1) mod 256` (R148). -/
def shiftLeft1 (a : Byte) : Byte := BitVec.ofNat 8 (2 * a.toNat)

end Sys2Proof.Machine
end

