-- ==== Sys2Proof/Machine/Operands.lean ====
section
/-! DEFINITION. The operand forms: registers are direct, immediates are contiguous unsigned fields used as they are, and the
only memory operand is DRW's implicit `mem[I + r]` (spec/30_encoding.md R94). -/

namespace Sys2Proof.Machine

/-- `zext_16(NNN)`: the address field as a 16-bit address (R94). -/
def zextAddr (nnn : AddrField) : Word := nnn.setWidth 16

/-- The start column of a sprite, `V[x] mod 64` (R171). -/
def State.startColumn (s : State) (x : Reg) : Nat := (s.getV x).toNat % 64

/-- The start row of a sprite, `V[y] mod 32` (R171). -/
def State.startRow (s : State) (y : Reg) : Nat := (s.getV y).toNat % 32

/-- The effective address of sprite row `r`, `I + r`, neither wrapped nor masked (R25, R172). Log entry 9. -/
def State.rowAddr (s : State) (r : Nat) : Nat := s.i.toNat + r

end Sys2Proof.Machine
end

