-- ==== Sys2Proof/Machine/Alu.lean ====
section
/-! DEFINITION. The register-register instructions, the 0x8 family (spec/42_alu.md). Operands are read before any write; the
flag is written before the result (spec/10_state.md R24). -/

namespace Sys2Proof.Machine

/-- LD Vx, Vy (R140). -/
def execLdReg (x y : Reg) (s : State) : Host.Outcome State Fault Refusal :=
  .next (s.setV x (s.getV y))

/-- OR Vx, Vy (R141): no flag change. -/
def execOr (x y : Reg) (s : State) : Host.Outcome State Fault Refusal :=
  .next (s.setV x (s.getV x ||| s.getV y))

/-- AND Vx, Vy (R142): no flag change. -/
def execAnd (x y : Reg) (s : State) : Host.Outcome State Fault Refusal :=
  .next (s.setV x (s.getV x &&& s.getV y))

/-- XOR Vx, Vy (R143): no flag change. -/
def execXor (x y : Reg) (s : State) : Host.Outcome State Fault Refusal :=
  .next (s.setV x (s.getV x ^^^ s.getV y))

/-- ADD Vx, Vy (R144): VF is the carry. -/
def execAddReg (x y : Reg) (s : State) : Host.Outcome State Fault Refusal :=
  let a := s.getV x
  let b := s.getV y
  .next (s.writeFlagThenResult x (carryOut a b) (wrapSum a b))

/-- SUB Vx, Vy (R145): VF is 1 when Vx > Vy, strictly. -/
def execSub (x y : Reg) (s : State) : Host.Outcome State Fault Refusal :=
  let a := s.getV x
  let b := s.getV y
  .next (s.writeFlagThenResult x (strictlyGreater a b) (wrapDiff a b))

/-- SHR Vx (R146): VF is the bit shifted out; the Y field is ignored. -/
def execShr (x _y : Reg) (s : State) : Host.Outcome State Fault Refusal :=
  let a := s.getV x
  .next (s.writeFlagThenResult x (lowBit a) (shiftRight1 a))

/-- SUBN Vx, Vy (R147): VF is 1 when Vy > Vx, strictly. -/
def execSubn (x y : Reg) (s : State) : Host.Outcome State Fault Refusal :=
  let a := s.getV x
  let b := s.getV y
  .next (s.writeFlagThenResult x (strictlyGreater b a) (wrapDiff b a))

/-- SHL Vx (R148): VF is the bit shifted out; the Y field is ignored. -/
def execShl (x _y : Reg) (s : State) : Host.Outcome State Fault Refusal :=
  let a := s.getV x
  .next (s.writeFlagThenResult x (highBit a) (shiftLeft1 a))

end Sys2Proof.Machine
end

