-- ==== Sys2Proof/Machine/Draw.lean ====
section
/-! DEFINITION. DRW Vx, Vy, n (spec/44_draw.md). The loops of R170 over rows and columns, on the display and the collision
flag; the flag is written to VF once, at the end (no read of VF lies between R170's two writes of it). -/

namespace Sys2Proof.Machine

/-- What the loops of R170 change: the display, and whether a set sprite pixel has met a set cell. -/
structure Canvas where
  display : Display
  collision : Bool
  deriving DecidableEq, Repr

/-- One set sprite pixel at `(px, py)`: clipped outside the display (R173), else collision, then toggle (R174). -/
def plot (px py : Nat) (c : Canvas) : Canvas :=
  if px ≤ 63 ∧ py ≤ 31 then
    let k := cellIndex px py
    { display := c.display.toggle k, collision := c.collision || c.display.cell k }
  else c

/-- The columns `c`, `c + 1`, ... of one sprite row, `left` of them to do; bit `7 - c` is the pixel of column `c` (R170). -/
def drawColumns (sprite : Byte) (x0 py : Nat) : (left c : Nat) → Canvas → Canvas
  | 0, _, cv => cv
  | left + 1, c, cv =>
    drawColumns sprite x0 py left (c + 1) (if sprite.getLsbD (7 - c) then plot (x0 + c) py cv else cv)

/-- One sprite row: its eight columns (R170). -/
def drawRow (sprite : Byte) (x0 py : Nat) (cv : Canvas) : Canvas := drawColumns sprite x0 py 8 0 cv

/-- The sprite rows `r`, `r + 1`, ..., `left` of them to do, in increasing order; a row's byte is read whether or not the row
is on the screen, and the first address above 0xFFF ends the step (R66, R170, R172). Log entry 9. -/
def drawRows (s : State) (x0 y0 : Nat) : (left r : Nat) → Canvas → Except Fault Canvas
  | 0, _, cv => .ok cv
  | left + 1, r, cv =>
    match s.readByte (s.rowAddr r) with
    | some sprite => drawRows s x0 y0 left (r + 1) (drawRow sprite x0 (y0 + r) cv)
    | none => .error (.dataOutOfBounds (s.rowAddr r))

/-- DRW Vx, Vy, n (R170): the coordinates are read before VF is written (R171); the draw flag is set unconditionally (R175,
log entry 14). -/
def execDrw (x y : Reg) (n : Height) (s : State) : Host.Outcome State Fault Refusal :=
  match drawRows s (s.startColumn x) (s.startRow y) n.toNat 0 ⟨s.display, false⟩ with
  | .ok cv => .next (State.setDrawFlag (State.setV { s with display := cv.display } vf (flagByte cv.collision)))
  | .error f => .fault f

end Sys2Proof.Machine
end

