-- ==== Sys2Proof/Machine/Immediate.lean ====
section
/-! DEFINITION. LD Vx, byte and ADD Vx, byte (spec/41_immediate.md). -/

namespace Sys2Proof.Machine

/-- LD Vx, byte (R130). -/
def execLdByte (x : Reg) (nn : Byte) (s : State) : Host.Outcome State Fault Refusal :=
  .next (s.setV x nn)

/-- ADD Vx, byte (R131): wraps, writes no flag. -/
def execAddByte (x : Reg) (nn : Byte) (s : State) : Host.Outcome State Fault Refusal :=
  .next (s.setV x (wrapSum (s.getV x) nn))

end Sys2Proof.Machine
end

