-- ==== Sys2Proof/Machine/IndexRandom.lean ====
section
/-! DEFINITION. LD I, addr and RND Vx, byte (spec/43_index_random.md). -/

namespace Sys2Proof.Machine

/-- LD I, addr (R160): bits 15 to 12 of `I` become 0. -/
def execLdI (nnn : AddrField) (s : State) : Host.Outcome State Fault Refusal :=
  .next (s.setI (zextAddr nnn))

/-- RND Vx, byte (R161): the random byte is a free value, fresh at each RND. Log entry 1. -/
def execRnd (x : Reg) (nn : Byte) (s : State) : Host.Outcome State Fault Refusal :=
  let (r, t) := s.draw8
  .next (t.setV x (r &&& nn))

end Sys2Proof.Machine
end

