-- ==== Sys2Proof/Machine/ScreenFlow.lean ====
section
/-! DEFINITION. CLS, RET, JP, CALL (spec/40_screen_and_flow.md). In every meaning `pc` is already the fetch address plus 2. -/

namespace Sys2Proof.Machine

/-- CLS (R120): every cell 0, the draw flag set unconditionally. Log entry 14. -/
def execCls (s : State) : Host.Outcome State Fault Refusal :=
  .next (State.setDrawFlag { s with display := Display.blank })

/-- RET (R121): pops a return address into `pc`; on an empty stack, nothing. Log entry 22. -/
def execRet (s : State) : Host.Outcome State Fault Refusal :=
  match s.pop with
  | some (a, t) => .next (t.setPc a)
  | none => .next s

/-- JP addr (R122). -/
def execJp (nnn : AddrField) (s : State) : Host.Outcome State Fault Refusal :=
  .next (s.setPc (zextAddr nnn))

/-- CALL addr (R123): pushes `pc`, then jumps; on a full stack, nothing. Log entry 22. -/
def execCall (nnn : AddrField) (s : State) : Host.Outcome State Fault Refusal :=
  match s.push s.pc with
  | some t => .next (t.setPc (zextAddr nnn))
  | none => .next s

end Sys2Proof.Machine
end

