-- ==== Sys2Proof/Machine/Step.lean ====
section
/-! DEFINITION. One fetch-decode-execute cycle (spec/30_encoding.md R90), and the placing of an instruction for the next one. -/

namespace Sys2Proof.Machine

/-- `step` (R90): fetch, advance `pc` by 2, decode, then execute or report the unknown word. A fetch beyond memory is the
fault FetchOutOfBounds, with nothing changed (R183). -/
def step (s : State) : Host.Outcome State Fault Refusal :=
  match s.fetchWord with
  | none => .fault (.fetchOutOfBounds s.pc)
  | some w =>
    match decodeWord w with
    | some i => exec i s.advance.reportOk
    | none => .next (s.advance.reportUnknown w)

/-- `s` with the instruction `w` (numbered as spec/opcode_table.json numbers it) stored at `pc`, where `step` fetches.
It stands for what `load program` does from outside the machine. Log entry 19. -/
def State.withFetchWord (s : State) (nbits w : Nat) : State :=
  { s with mem := s.mem.writeWord s.font s.pc.toNat (BitVec.ofNat 16 (w % 2 ^ nbits)) }

end Sys2Proof.Machine
end

