-- ==== Sys2Proof/Machine/Commands.lean ====
section
/-! DEFINITION. The block's command interface and the host's direct accesses (spec/00_scope.md R5 to R8). Each is one atomic
transition of a `System`, the machine running or stopped by a fault; a run is any sequence of them, in any order (R8, R194). -/

namespace Sys2Proof.Machine

/-- The result of `load program` (spec/70_reset_and_hazards.md R223, R224). -/
inductive LoadResult where
  | ok
  | programTooLarge
  deriving DecidableEq, Repr

/-- The machine with its fault mark (R184): running, or stopped by a fault in the step that began in `s`. `s` says nothing of
the machine after the fault ("no claim is made about the state after it", R66); it carries `font`, `stream` and `draws`
on to the next `reset`.
Log entry 18. -/
inductive System where
  | running (s : State)
  | stopped (f : Fault) (s : State)
  deriving DecidableEq, Repr

/-- What the host can do (R6, R7). Log entry 17. -/
inductive Command where
  /-- `reset` (R220). -/
  | reset
  /-- `load program` (R223). -/
  | loadProgram (bytes : List Byte)
  /-- `step` (R90). -/
  | step
  /-- `tick timers` (R192). -/
  | tickTimers
  /-- The host reads cell `(x, y)` of the display (R195). -/
  | readCell (x : Fin 64) (y : Fin 32)
  /-- The host reads the draw flag (R196). -/
  | readDrawFlag
  /-- The host clears the draw flag (R196). -/
  | clearDrawFlag
  /-- The host writes all 16 key states (R197). -/
  | writeKeypad (keys : Vector Bool 16)
  /-- The host reads the sound timer (R198). -/
  | readSoundTimer
  deriving DecidableEq, Repr

/-- What a command or access returns (R6, R7). -/
inductive Response where
  /-- No result: `reset`, `tick timers`, and the two writes. -/
  | none
  /-- A step's report; `Option` because State holds it so, never none (R180). -/
  | stepped (r : Option Report)
  /-- The result of `load program`. -/
  | loaded (r : LoadResult)
  /-- A display cell: true is 1 (on). -/
  | cell (b : Bool)
  /-- The draw flag. -/
  | flag (b : Bool)
  /-- The sound timer. -/
  | byte (b : Byte)
  /-- The step faulted now, or the machine was stopped by this fault before (R183, R184). -/
  | faulted (f : Fault)
  /-- A step gave no meaning; no instruction of this model does so. -/
  | refused (r : Refusal)
  deriving DecidableEq, Repr

/-- `reset` from any state (R220): every part at its value of R38, with the machine's own FONT; the keypad and the draw flag
are free values.
DESIGN CHOICE (log entry 3), safe. -/
def State.resetFrom (s : State) : State :=
  { State.reset with
    keypad := Config.resetKeypad s.stream s.draws
    drawFlag := Config.resetDrawFlag s.stream s.draws
    font := s.font
    stream := s.stream
    draws := s.draws + 1 }

/-- `load program(bytes)` (R223, R224): too large changes nothing; otherwise the bytes are copied from 0x200 up. -/
def State.loadProgram (s : State) (bytes : List Byte) : LoadResult × State :=
  if programFits bytes then (.ok, { s with mem := s.mem.writeBytes s.font Config.progBase bytes })
  else (.programTooLarge, s)

/-- A timer's decrement, floored at 0 (R192). -/
def tickDown (t : Byte) : Byte := BitVec.ofNat 8 (t.toNat - 1)

/-- `tick timers` (R192). -/
def State.tickTimers (s : State) : State := { s with dt := tickDown s.dt, st := tickDown s.st }

/-- The host's read of cell `(x, y)` (R195). -/
def State.hostCell (s : State) (x : Fin 64) (y : Fin 32) : Bool := s.display.cell (cellIndex x.val y.val)

/-- The host's clearing of the draw flag (R196). -/
def State.clearDrawFlag (s : State) : State := { s with drawFlag := false }

/-- The host's write of all 16 keys (R197). -/
def State.writeKeypad (s : State) (keys : Vector Bool 16) : State := { s with keypad := keys }

/-- A step of a running machine: a fault stops it (R183, R184). -/
def System.stepRunning (s : State) : System × Response :=
  match Sys2Proof.Machine.step s with
  | .next t => (.running t, .stepped t.report)
  | .fault f => (.stopped f s, .faulted f)
  | .refused r => (.running s, .refused r)

/-- One command or access on a running machine (R6, R7). -/
def commandRunning (s : State) : Command → System × Response
  | .reset => (.running s.resetFrom, .none)
  | .loadProgram bytes => (.running (s.loadProgram bytes).2, .loaded (s.loadProgram bytes).1)
  | .step => System.stepRunning s
  | .tickTimers => (.running s.tickTimers, .none)
  | .readCell x y => (.running s, .cell (s.hostCell x y))
  | .readDrawFlag => (.running s, .flag s.drawFlag)
  | .clearDrawFlag => (.running s.clearDrawFlag, .none)
  | .writeKeypad keys => (.running (s.writeKeypad keys), .none)
  | .readSoundTimer => (.running s, .byte s.st)

/-- One command or access. A stopped machine answers every one of them with its fault and stays as it is, but for `reset`,
which revives it (R183, R184, R220). -/
def command (c : Command) : System → System × Response
  | .running s => commandRunning s c
  | .stopped f s =>
    match c with
    | .reset => (.running s.resetFrom, .none)
    | .loadProgram _ | .step | .tickTimers | .readCell _ _ | .readDrawFlag | .clearDrawFlag | .writeKeypad _
    | .readSoundTimer => (.stopped f s, .faulted f)

/-- A run: commands in the order the host issues them (R5, R8, R194). -/
def runCommands : List Command → System → System
  | [], m => m
  | c :: rest, m => runCommands rest (command c m).1

end Sys2Proof.Machine
end

