-- ==== Sys2Proof/Safety.lean ====
section
/-! DEFINITION. The terms the claims use: the invariants of reachable states (spec/10_state.md R40), what "nothing else changes"
means, reachability by commands, and when a step executes normally. -/

namespace Sys2Proof.Machine

/-- The invariants every command keeps (R40): the memory's canonical form and the four of R40 that the types do not hold
(`sp ≤ 16` and a display cell being 0 or 1 are in the types). The reserved range, the font and 0x0A0 to 0x1FF read as `reset`
left them. -/
structure State.Inv (s : State) : Prop where
  mem_wf : s.MemWf
  i_le : s.i.toNat ≤ 0x0FFF
  pc_le : s.pc.toNat ≤ 0x1000
  stack_le : ∀ k (h : k < 16), s.stack[k].toNat ≤ 0x1000
  low_mem : ∀ a, a < Config.progBase → s.readByte a = some (Memory.initial s.font a)

/-- Both timers are 0 (R40's last row). -/
def State.TimersZero (s : State) : Prop := s.dt = 0 ∧ s.st = 0

/-- A system whose machine, if running, satisfies `P`. -/
def System.Holds (P : State → Prop) : System → Prop
  | .running s => P s
  | .stopped _ _ => True

/-- The state a system holds: of a stopped one, that in which the faulting step began. -/
def System.state : System → State
  | .running s => s
  | .stopped _ s => s

/-- A launch state (spec/70_reset_and_hazards.md R225): the reset state of a machine with any FONT (R10) and any stream of free
values (R201), with any keypad and any draw flag, before the load; and with any timer values, as R193 asks of a model, the reset
state's own being 0. Log entry 24. -/
def State.launch (font : Config.Font) (stream : Nat) (keys : Vector Bool 16) (flag : Bool) (dt st : Byte) : State :=
  { State.reset with font := font, stream := stream, keypad := keys, drawFlag := flag, dt := dt, st := st }

/-- What commands can reach from a launch state of a machine with this FONT and these timer values, in any interleaving
(R8, R40). From `reset` both timer values are 0 (R193). -/
inductive Reachable (font : Config.Font) (dt st : Byte) : System → Prop where
  | launch (stream : Nat) (keys : Vector Bool 16) (flag : Bool) :
    Reachable font dt st (.running (State.launch font stream keys flag dt st))
  | command (c : Command) (m : System) :
    Reachable font dt st m → Reachable font dt st (Sys2Proof.Machine.command c m).1

/-- Every byte of memory reads as before. -/
def SameMemory (s t : State) : Prop := ∀ a, t.readByte a = s.readByte a

/-- The parts no instruction writes: memory, keypad, timers, FONT, and the model's stream and report of the last step. -/
def SameUntouchable (s t : State) : Prop :=
  SameMemory s t ∧ t.keypad = s.keypad ∧ t.dt = s.dt ∧ t.st = s.st ∧ t.font = s.font ∧ t.stream = s.stream ∧
  t.report = s.report

/-- Everything but the general registers is unchanged. -/
def SameButV (s t : State) : Prop :=
  SameUntouchable s t ∧ t.i = s.i ∧ t.pc = s.pc ∧ t.sp = s.sp ∧ t.stack = s.stack ∧ t.display = s.display ∧
  t.drawFlag = s.drawFlag ∧ t.draws = s.draws

/-- All general registers but `x` are unchanged. -/
def SameVBut (x : Reg) (s t : State) : Prop := ∀ r, r ≠ x → t.getV r = s.getV r

/-- All sixteen general registers are unchanged. -/
def SameV (s t : State) : Prop := ∀ r, t.getV r = s.getV r

/-- The sprite of height `n` lies within memory, `I + N <= 0x1000`, so that DRW does not fault (R172). -/
def State.SpriteInMemory (s : State) (n : Height) : Prop := n.toNat = 0 ∨ s.i.toNat + n.toNat ≤ 0x1000

/-- Bit `c` from the left of the sprite byte at `I + r`: the pixel of column `c`, row `r` (R170, R172). -/
def State.spriteBit (s : State) (r c : Nat) : Bool :=
  match s.readByte (s.i.toNat + r) with
  | some b => b.getLsbD (7 - c)
  | none => false

/-- A set pixel of the sprite of height `n`, drawn from `(x0, y0)`, falls on cell `(px, py)` of the display. -/
def State.Covers (s : State) (x0 y0 : Nat) (n : Height) (px py : Nat) : Prop :=
  px < 64 ∧ py < 32 ∧ ∃ r c, r < n.toNat ∧ c < 8 ∧ px = x0 + c ∧ py = y0 + r ∧ s.spriteBit r c = true

/-- The step's fetch stays within memory (R183). -/
def State.FetchInMemory (s : State) : Prop := s.pc.toNat ≤ 0x0FFE

/-- What DRW does when no row is out of memory (R170): every cell under a set sprite pixel is toggled and no other, VF is 1
exactly when one of those cells was set, the draw flag is set, and nothing else changes. Start coordinates are taken modulo 64
and 32 from the registers as they were before (R171); pixels off the display are clipped (R173). -/
structure DrawEffect (x y : Reg) (n : Height) (s t : State) : Prop where
  cells : ∀ px py, px < 64 → py < 32 →
    (t.display.cell (px + 64 * py) = true ↔
      (s.display.cell (px + 64 * py) = true ↔
        ¬ s.Covers ((s.getV x).toNat % 64) ((s.getV y).toNat % 32) n px py))
  collision : (∃ px py, s.Covers ((s.getV x).toNat % 64) ((s.getV y).toNat % 32) n px py ∧
    s.display.cell (px + 64 * py) = true) → t.getV vf = 1
  noCollision : (¬ ∃ px py, s.Covers ((s.getV x).toNat % 64) ((s.getV y).toNat % 32) n px py ∧
    s.display.cell (px + 64 * py) = true) → t.getV vf = 0
  drawFlag : t.drawFlag = true
  registers : SameVBut vf s t
  rest : SameUntouchable s t ∧ t.i = s.i ∧ t.pc = s.pc ∧ t.sp = s.sp ∧ t.stack = s.stack ∧ t.draws = s.draws

/-- The five arithmetic and shift instructions and DRW: those that write VF as a flag (R23). -/
def writesFlag : Instr → Bool
  | .addReg _ _ | .sub _ _ | .shr _ _ | .subn _ _ | .shl _ _ | .drw _ _ _ => true
  | .cls | .ret | .jp _ | .call _ | .ldByte _ _ | .addByte _ _ | .ldReg _ _ | .orReg _ _ | .andReg _ _ | .xorReg _ _
  | .ldI _ | .rnd _ _ => false

/-- The register an instruction names as its destination, if any (R93, R94). -/
def destReg : Instr → Option Reg
  | .ldByte x _ | .addByte x _ | .ldReg x _ | .orReg x _ | .andReg x _ | .xorReg x _ | .addReg x _ | .sub x _ | .shr x _
  | .subn x _ | .shl x _ | .rnd x _ => some x
  | .cls | .ret | .jp _ | .call _ | .ldI _ | .drw _ _ _ => none

/-- The `pc` after a step that fetched `i` at `s.pc` (the table of R30). -/
def pcAfter (i : Instr) (s : State) : Nat :=
  match i with
  | .jp nnn => nnn.toNat
  | .call nnn => if s.sp.val < 16 then nnn.toNat else s.pc.toNat + 2
  | .ret => if h : 0 < s.sp.val then s.stack[s.sp.val - 1].toNat else s.pc.toNat + 2
  | .cls | .ldByte _ _ | .addByte _ _ | .ldReg _ _ | .orReg _ _ | .andReg _ _ | .xorReg _ _ | .addReg _ _ | .sub _ _
  | .shr _ _ | .subn _ _ | .shl _ _ | .ldI _ | .rnd _ _ | .drw _ _ _ => s.pc.toNat + 2

/-- Two states that a program cannot tell apart: they agree on all but the keypad, the timers, the draw flag and the model's
report, which no instruction reads (R28, R34, R193). -/
def SameProgramView (s t : State) : Prop :=
  t.v = s.v ∧ t.i = s.i ∧ t.pc = s.pc ∧ t.stack = s.stack ∧ t.sp = s.sp ∧ t.display = s.display ∧ t.mem = s.mem ∧
  t.font = s.font ∧ t.stream = s.stream ∧ t.draws = s.draws

/-- Executes a list of instructions one after another, without fetching, stopping at the first fault or refusal. -/
def execAll : List Instr → State → Host.Outcome State Fault Refusal
  | [], s => .next s
  | i :: rest, s =>
    match exec i s with
    | .next t => execAll rest t
    | .fault f => .fault f
    | .refused r => .refused r

end Sys2Proof.Machine
end

