-- ==== Sys2Proof/Certificates/Slice0/Obligations.lean ====
section
/-! DEFINITION. The statements for the provers, each from the rules of spec/ its docstring names. In a statement about `exec`,
`s.pc` is already the fetch address plus 2 (spec/30_encoding.md R90). Words are written as numbers from the patterns of R96. -/

open Sys2Proof Sys2Proof.Machine

/-! ### Reset, load, timers, host (spec/70_reset_and_hazards.md, spec/60_exceptions.md, spec/00_scope.md) -/

/-- `reset`, from every system, a stopped one included, leaves every stated part at its stated value: memory, with the
machine's FONT (R10's parameter, any 80 bytes) at 0x050 to 0x09F, registers, stack, display, `pc`, `I`, `sp`, timers; and the
machine runs again. It says nothing of the keypad and the draw flag, which are free. R220. -/
def Obligations.ResetSetsEveryStatedPart : Prop :=
  ∀ m : System, ∃ t, command .reset m = (.running t, .none) ∧
    (∀ r, t.getV r = 0) ∧ (∀ k (h : k < 16), t.stack[k] = 0) ∧ (∀ k, k < 2048 → t.display.cell k = false) ∧
    t.pc = 0x0200 ∧ t.i = 0 ∧ t.sp = 0 ∧ t.dt = 0 ∧ t.st = 0 ∧
    (∀ j, j < 80 → t.readByte (0x050 + j) = some (Config.fontByte m.state.font j)) ∧
    (∀ a, a < 0x1000 → (a < 0x050 ∨ 0x09F < a) → t.readByte a = some 0)

/-- Every launch state, whatever its FONT, its stream of free values, its keypad, its draw flag and its timer values (R193),
has the values R38 states for `pc`, `I`, `sp`, the registers, the stack, the display and all of memory, and satisfies the
invariants State.Inv. Last clause, THE MODEL'S CHOICE (log entries 1, 2, 4) but for the timers at 0 (R38): State.reset is the
launch state with the default FONT, stream 0, released keys, a clear flag and both timers 0. -/
def Obligations.LaunchStatesSatisfyInvariants : Prop :=
  (∀ font stream keys flag dt st s, s = State.launch font stream keys flag dt st →
    s.pc = 0x0200 ∧ s.i = 0 ∧ s.sp = 0 ∧ s.dt = dt ∧ s.st = st ∧ (∀ r, s.getV r = 0) ∧
    (∀ k (h : k < 16), s.stack[k] = 0) ∧ (∀ k, k < 2048 → s.display.cell k = false) ∧
    (∀ j, j < 80 → s.readByte (0x050 + j) = some (Config.fontByte font j)) ∧
    (∀ a, a < 0x1000 → (a < 0x050 ∨ 0x09F < a) → s.readByte a = some 0) ∧
    s.keypad = keys ∧ s.drawFlag = flag ∧ s.Inv) ∧
  State.launch Config.defaultFont 0 (Vector.replicate 16 false) false 0 0 = State.reset

/-- `load program` of at most 3584 bytes answers Ok, copies the bytes from 0x200 up, leaves every other byte of memory and
every other part of the state; of more than 3584 bytes it answers ProgramTooLarge, and the state after it equals the state
before it, memory included. R223, R224. -/
def Obligations.LoadProgramCopiesOrChangesNothing : Prop :=
  ∀ (s : State) (bytes : List Byte),
    (s.MemWf → bytes.length ≤ 3584 →
      ∃ t, command (.loadProgram bytes) (.running s) = (.running t, .loaded .ok) ∧
        (∀ j (h : j < bytes.length), t.readByte (0x200 + j) = some bytes[j]) ∧
        (∀ a, a < 0x200 ∨ 0x200 + bytes.length ≤ a → t.readByte a = s.readByte a) ∧
        t = { s with mem := t.mem }) ∧
    (3584 < bytes.length →
      command (.loadProgram bytes) (.running s) = (.running s, .loaded .programTooLarge))

/-- After `k` ticks from `(d, s)` the timers are `(max(d - k, 0), max(s - k, 0))`, and nothing else has changed. R192. -/
def Obligations.TimersCountDownToZero : Prop :=
  ∀ (k : Nat) (s : State), ∃ t, runCommands (List.replicate k .tickTimers) (.running s) = .running t ∧
    t.dt.toNat = s.dt.toNat - k ∧ t.st.toNat = s.st.toNat - k ∧ t = { s with dt := t.dt, st := t.st }

/-- No program's behaviour depends on where the ticks fall: a step after a tick gives the tick of what the step gives, and it
faults in the same way. R194, R193. -/
def Obligations.TicksCommuteWithSteps : Prop :=
  ∀ s : State,
    (∀ t, step s = .next t → step s.tickTimers = .next t.tickTimers) ∧
    (∀ f, step s = .fault f → step s.tickTimers = .fault f)

/-- The host's accesses: the display, draw flag and sound timer reads have no side effect and give what the state holds; the
clear and the keypad write change only their own part. R195, R196, R197, R198. -/
def Obligations.HostAccessesTouchOnlyTheirPart : Prop :=
  ∀ s : State,
    (∀ (x : Fin 64) (y : Fin 32),
      command (.readCell x y) (.running s) = (.running s, .cell s.display[y.val][x.val])) ∧
    command .readDrawFlag (.running s) = (.running s, .flag s.drawFlag) ∧
    command .readSoundTimer (.running s) = (.running s, .byte s.st) ∧
    command .clearDrawFlag (.running s) = (.running { s with drawFlag := false }, .none) ∧
    ∀ keys, command (.writeKeypad keys) (.running s) = (.running { s with keypad := keys }, .none)

/-- A fault stops the machine for good: whatever the host issues but `reset`, it stays stopped by the same fault; `reset`
revives it. R184 (the mark is the model's own form of it: log entry 18). -/
def Obligations.FaultStopsUntilReset : Prop :=
  ∀ (s : State) (f : Fault), step s = .fault f →
    command .step (.running s) = (.stopped f s, .faulted f) ∧
    (∀ cs : List Command, Command.reset ∉ cs → runCommands cs (.stopped f s) = .stopped f s) ∧
    ∃ t, command .reset (.stopped f s) = (.running t, .none)

/-! ### The step, decode, encode (spec/30_encoding.md) -/

/-- When the two bytes at `pc` decode to an instruction, the step is that instruction's execution with `pc` advanced by 2 (and
the model's report set to Ok: log entry 7). R90, R91. -/
def Obligations.StepRunsTheDecodedInstruction : Prop :=
  ∀ (s : State) (hi lo : Byte) (i : Instr),
    s.readByte s.pc.toNat = some hi → s.readByte (s.pc.toNat + 1) = some lo → decodeWord (wordOfBytes hi lo) = some i →
    step s = exec i { s with pc := s.pc + 2, report := some .ok }

/-- A word that matches no row of the opcode map is reported, `pc` is the fetch address plus 2, and every other piece of state
is exactly as before; the step is not fatal. R99. -/
def Obligations.UnknownWordIsReportedAndSkipped : Prop :=
  ∀ (s : State) (hi lo : Byte),
    s.readByte s.pc.toNat = some hi → s.readByte (s.pc.toNat + 1) = some lo →
    (∀ row ∈ opcodeMap, wordOfBytes hi lo &&& row.1 ≠ row.2) →
    ∃ t, step s = .next t ∧ t.pc.toNat = s.pc.toNat + 2 ∧ t.report = some (.unknownOpcode (wordOfBytes hi lo)) ∧
      t = { s with pc := t.pc, report := t.report }

/-- Exactly the words of R100's list are unknown: OP 0 but for 0x00E0 and 0x00EE, OP 3, 4, 5, 9, B, E, F, and OP 8 with N 8, 9,
A, B, C, D, F. R100 (its counts apart; the spec's own decision D3: log entry 6). -/
def Obligations.UnknownWordsAreTheListedOnes : Prop :=
  ∀ w : Word, decodeWord w = none ↔
    (w.toNat / 4096 = 0 ∧ w.toNat ≠ 0x00E0 ∧ w.toNat ≠ 0x00EE) ∨
    w.toNat / 4096 ∈ [3, 4, 5, 9, 0xB, 0xE, 0xF] ∨
    (w.toNat / 4096 = 8 ∧ w.toNat % 16 ∈ [8, 9, 0xA, 0xB, 0xC, 0xD, 0xF])

/-- A word decodes to an instruction exactly when it matches a row of the opcode map; it then matches one row only, that of the
instruction. R96. -/
def Obligations.DecodeFollowsTheOpcodeMap : Prop :=
  ∀ w : Word,
    ((∃ i, decodeWord w = some i) ↔ ∃ row ∈ opcodeMap, w &&& row.1 = row.2) ∧
    (∀ row ∈ opcodeMap, ∀ row' ∈ opcodeMap, w &&& row.1 = row.2 → w &&& row'.1 = row'.2 → row = row') ∧
    (∀ i, decodeWord w = some i → w &&& encodingMask i = encodingMatch i)

/-- Every instruction, with every operand value, decodes from its own word, and from its own two bytes in memory order with
whatever follows them. R92, R93, R96, R67. -/
def Obligations.DecodeOfEncodeIsTheInstruction : Prop :=
  ∀ i : Instr, decodeWord (encode i) = some i ∧ ∀ rest, decode (encodeBytes i ++ rest) = .ok (i, rest)

/-- Every word that is an instruction is that instruction's own encoding: each word has one meaning and no bit is dropped, the
Y field of SHR and SHL included. R92, R98, R101. -/
def Obligations.EncodeOfDecodeIsTheWord : Prop :=
  ∀ (w : Word) (i : Instr), decodeWord w = some i → encode i = w

/-- A few words of the spec's examples decode as it says. R96 and the vectors F1, F2, A24, X4 of spec/95_test_vectors.md. -/
def Obligations.SampleWordsDecodeAsWritten : Prop :=
  decodeWord 0x1234 = some (.jp 0x234) ∧ decodeWord 0xD5A7 = some (.drw 5 0xA 7) ∧ decodeWord 0x00EE = some .ret ∧
  decodeWord 0x80F6 = some (.shr 0 0xF) ∧ decodeWord 0x6A2C = some (.ldByte 0xA 0x2C) ∧
  decodeWord 0xA20E = some (.ldI 0x20E) ∧ decodeWord 0x01E0 = none

/-- A word placed big-endian at `pc` is the word fetched, at any `pc` up to 0xFFE, odd ones included. R67, R91. -/
def Obligations.PlacedWordIsFetched : Prop :=
  ∀ (s : State) (w : Word), s.MemWf → s.FetchInMemory →
    (s.withFetchWord 16 w.toNat).fetchWord = some w

/-- A step faults at fetch exactly when it begins with `pc` above 0xFFE, and the fault carries that `pc`. R183, R31
(the spec's own decision D4: log entry 8). -/
def Obligations.FetchFaultsExactlyBeyondMemory : Prop :=
  ∀ (s : State) (p : Word), step s = .fault (.fetchOutOfBounds p) ↔ (0x0FFE < s.pc.toNat ∧ p = s.pc)

/-- A step completes, with a report, whenever the fetch is in memory and the word is not a DRW whose sprite leaves memory; it
never refuses. The command `step` then leaves the machine running in the step's next state and returns the step's report.
R6, R90, R180, R187 (the two faults are the spec's own decisions D4, D5: log entries 8, 9). -/
def Obligations.StepCompletesInBounds : Prop :=
  ∀ s : State, s.FetchInMemory →
    (∀ w x y n, s.fetchWord = some w → decodeWord w = some (.drw x y n) → s.SpriteInMemory n) →
    ∃ t r, step s = .next t ∧ t.report = some r ∧ command .step (.running s) = (.running t, .stepped (some r))

/-- A program loaded into a launch state runs from its first word: after `load program`, the next step executes the instruction
whose two bytes come first. R225, R76, R223. -/
def Obligations.LoadedProgramRunsFromItsFirstWord : Prop :=
  ∀ (font : Config.Font) (stream : Nat) (keys : Vector Bool 16) (flag : Bool) (dt st : Byte) (i : Instr)
    (rest : List Byte), rest.length ≤ 3582 →
    ∃ t, command (.loadProgram (encodeBytes i ++ rest)) (.running (State.launch font stream keys flag dt st)) =
        (.running t, .loaded .ok) ∧
      step t = exec i { t with pc := 0x202, report := some .ok }

/-! ### CLS, RET, JP, CALL (spec/40_screen_and_flow.md) -/

/-- CLS is 00E0; it clears every cell, sets the draw flag, and changes nothing else. R120. -/
def Obligations.ClearScreenBlanksDisplay : Prop :=
  decodeWord 0x00E0 = some .cls ∧
  ∀ s : State, ∃ t, exec .cls s = .next t ∧ (∀ k, k < 2048 → t.display.cell k = false) ∧ t.drawFlag = true ∧
    SameV s t ∧ SameUntouchable s t ∧ t.i = s.i ∧ t.pc = s.pc ∧ t.sp = s.sp ∧ t.stack = s.stack ∧ t.draws = s.draws

/-- RET is 00EE; on a non-empty stack it pops the top return address into `pc`, unchecked (above 0xFFE the next step faults),
and keeps the slot; on an empty one it changes nothing; nothing else changes. After a CALL, a RET met at any `pc` restores the
address after the CALL. R121. -/
def Obligations.ReturnPopsOrDoesNothing : Prop :=
  decodeWord 0x00EE = some .ret ∧
  (∀ s : State, s.sp.val = 0 → exec .ret s = .next s) ∧
  (∀ (s : State) (k : Nat) (h : k < 16), s.sp.val = k + 1 →
    ∃ t, exec .ret s = .next t ∧ t.sp.val = k ∧ t.pc = s.stack[k] ∧ t.stack = s.stack ∧
      SameV s t ∧ SameUntouchable s t ∧ t.i = s.i ∧ t.display = s.display ∧ t.drawFlag = s.drawFlag ∧
      t.draws = s.draws) ∧
  (∀ s t : State, exec .ret s = .next t → 0x0FFE < t.pc.toNat → step t = .fault (.fetchOutOfBounds t.pc)) ∧
  ∀ (s t : State) (nnn : AddrField) (p : Word), s.sp.val < 16 → exec (.call nnn) s = .next t →
    ∃ u, exec .ret { t with pc := p } = .next u ∧ u.pc = s.pc ∧ u.sp = s.sp

/-- JP addr is 1NNN; it sets `pc` to the zero-extended address field, overwriting the fetch's advance, for every target, odd ones
and 0xFFF included (the fetch after a jump to 0xFFF faults); nothing else changes; a jump to its own address repeats for ever
(its step changes nothing but the model's report, log entry 7). R122. -/
def Obligations.JumpSetsPc : Prop :=
  (∀ nnn : AddrField, decodeWord (BitVec.ofNat 16 (0x1000 + nnn.toNat)) = some (.jp nnn)) ∧
  (∀ (nnn : AddrField) (s : State), ∃ t, exec (.jp nnn) s = .next t ∧ t.pc.toNat = nnn.toNat ∧
    SameV s t ∧ SameUntouchable s t ∧ t.i = s.i ∧ t.sp = s.sp ∧ t.stack = s.stack ∧ t.display = s.display ∧
    t.drawFlag = s.drawFlag ∧ t.draws = s.draws) ∧
  (∀ s t : State, exec (.jp 0xFFF) s = .next t → step t = .fault (.fetchOutOfBounds 0x0FFF)) ∧
  ∀ (s : State) (nnn : AddrField), s.pc.toNat = nnn.toNat →
    s.fetchWord = some (BitVec.ofNat 16 (0x1000 + nnn.toNat)) → step s = .next { s with report := some .ok }

/-- CALL addr is 2NNN; below depth 16 it writes `pc` (the address after the CALL) to `stack[sp]`, raises `sp` by 1 and sets `pc`
to the address field; at depth 16 it changes nothing; nothing else changes. R123. -/
def Obligations.CallPushesOrDoesNothing : Prop :=
  (∀ nnn : AddrField, decodeWord (BitVec.ofNat 16 (0x2000 + nnn.toNat)) = some (.call nnn)) ∧
  (∀ (nnn : AddrField) (s : State), s.sp.val = 16 → exec (.call nnn) s = .next s) ∧
  ∀ (nnn : AddrField) (s : State) (k : Nat) (h : k < 16), s.sp.val = k →
    ∃ t, exec (.call nnn) s = .next t ∧ t.sp.val = k + 1 ∧ t.pc.toNat = nnn.toNat ∧ t.stack = s.stack.set k s.pc ∧
      SameV s t ∧ SameUntouchable s t ∧ t.i = s.i ∧ t.display = s.display ∧ t.drawFlag = s.drawFlag ∧ t.draws = s.draws

/-- Calls nested as deep as the stack allows unwind exactly: after a CALL and any number of further nested CALLs within 16, as
many RETs restore `sp` and bring `pc` back to the address after the first CALL. R121 corner case 4, R123 corner case 4. -/
def Obligations.NestedCallsUnwind : Prop :=
  ∀ (s : State) (target : AddrField) (inner : List AddrField), s.sp.val + inner.length < 16 →
    ∃ t, execAll ((target :: inner).map Instr.call) s = .next t ∧ t.sp.val = s.sp.val + inner.length + 1 ∧
      ∃ u, execAll (List.replicate (inner.length + 1) .ret) t = .next u ∧ u.pc = s.pc ∧ u.sp = s.sp ∧ SameV s u

/-! ### LD Vx, byte and ADD Vx, byte (spec/41_immediate.md) -/

/-- LD Vx, byte is 6XNN; it loads the byte into V[X], VF like any register, and changes nothing else. R130. -/
def Obligations.LoadImmediateSetsRegister : Prop :=
  ∀ (x : Reg) (nn : Byte),
    decodeWord (BitVec.ofNat 16 (0x6000 + 256 * x.val + nn.toNat)) = some (.ldByte x nn) ∧
    ∀ s : State, ∃ t, exec (.ldByte x nn) s = .next t ∧ t.getV x = nn ∧ SameVBut x s t ∧ SameButV s t

/-- ADD Vx, byte is 7XNN; it adds modulo 256 with no flag (VF unchanged unless X is 15, which adds to VF as an ordinary
register), and changes nothing else. R131. -/
def Obligations.AddImmediateWrapsWithoutFlag : Prop :=
  ∀ (x : Reg) (nn : Byte),
    decodeWord (BitVec.ofNat 16 (0x7000 + 256 * x.val + nn.toNat)) = some (.addByte x nn) ∧
    ∀ s : State, ∃ t, exec (.addByte x nn) s = .next t ∧ (t.getV x).toNat = ((s.getV x).toNat + nn.toNat) % 256 ∧
      SameVBut x s t ∧ SameButV s t

/-! ### The 0x8 family (spec/42_alu.md) -/

/-- LD Vx, Vy is 8XY0; it copies V[Y] to V[X], writes no flag, and changes nothing else. R140. -/
def Obligations.CopyRegister : Prop :=
  ∀ x y : Reg,
    decodeWord (BitVec.ofNat 16 (0x8000 + 256 * x.val + 16 * y.val)) = some (.ldReg x y) ∧
    ∀ s : State, ∃ t, exec (.ldReg x y) s = .next t ∧ t.getV x = s.getV y ∧ SameVBut x s t ∧ SameButV s t

/-- OR Vx, Vy is 8XY1; bit by bit the OR of the two, no flag, nothing else changes. R141. -/
def Obligations.OrRegisters : Prop :=
  ∀ x y : Reg,
    decodeWord (BitVec.ofNat 16 (0x8001 + 256 * x.val + 16 * y.val)) = some (.orReg x y) ∧
    ∀ s : State, ∃ t, exec (.orReg x y) s = .next t ∧
      (∀ k, k < 8 → (t.getV x).getLsbD k = ((s.getV x).getLsbD k || (s.getV y).getLsbD k)) ∧
      SameVBut x s t ∧ SameButV s t

/-- AND Vx, Vy is 8XY2; bit by bit the AND of the two, no flag, nothing else changes. R142. -/
def Obligations.AndRegisters : Prop :=
  ∀ x y : Reg,
    decodeWord (BitVec.ofNat 16 (0x8002 + 256 * x.val + 16 * y.val)) = some (.andReg x y) ∧
    ∀ s : State, ∃ t, exec (.andReg x y) s = .next t ∧
      (∀ k, k < 8 → (t.getV x).getLsbD k = ((s.getV x).getLsbD k && (s.getV y).getLsbD k)) ∧
      SameVBut x s t ∧ SameButV s t

/-- XOR Vx, Vy is 8XY3; bit by bit the exclusive OR of the two (X = Y clears V[X]), no flag, nothing else changes. R143. -/
def Obligations.XorRegisters : Prop :=
  ∀ x y : Reg,
    decodeWord (BitVec.ofNat 16 (0x8003 + 256 * x.val + 16 * y.val)) = some (.xorReg x y) ∧
    ∀ s : State, ∃ t, exec (.xorReg x y) s = .next t ∧
      (∀ k, k < 8 → (t.getV x).getLsbD k = ((s.getV x).getLsbD k ^^ (s.getV y).getLsbD k)) ∧
      SameVBut x s t ∧ SameButV s t

/-- ADD Vx, Vy is 8XY4; with X not 15, V[X] is the sum modulo 256 and VF is 1 exactly when the sum is above 255 (Y = 15 adds the
old VF); nothing else changes. R144, R150. (X = 15: ArithmeticResultOutlivesFlagInVF.) -/
def Obligations.AddRegistersSetsCarry : Prop :=
  ∀ x y : Reg,
    decodeWord (BitVec.ofNat 16 (0x8004 + 256 * x.val + 16 * y.val)) = some (.addReg x y) ∧
    ∀ s : State, x ≠ vf → ∃ t, exec (.addReg x y) s = .next t ∧
      (t.getV x).toNat = ((s.getV x).toNat + (s.getV y).toNat) % 256 ∧
      t.getV vf = (if (s.getV x).toNat + (s.getV y).toNat > 255 then 1 else 0) ∧
      (∀ r, r ≠ x → r ≠ vf → t.getV r = s.getV r) ∧ SameButV s t

/-- SUB Vx, Vy is 8XY5; with X not 15, V[X] is V[X] - V[Y] modulo 256, VF is 1 when V[X] is greater and 0 when it is
less; nothing else changes. R145, R150. With Y = 15 it subtracts the old VF: THE MODEL'S CHOICE (log entry 11), the spec's own decision
D7. (Equal operands: EqualOperandsClearSubtractFlag. X = 15: ArithmeticResultOutlivesFlagInVF.) -/
def Obligations.SubtractSetsNoBorrow : Prop :=
  ∀ x y : Reg,
    decodeWord (BitVec.ofNat 16 (0x8005 + 256 * x.val + 16 * y.val)) = some (.sub x y) ∧
    ∀ s : State, x ≠ vf → ∃ t, exec (.sub x y) s = .next t ∧
      ((t.getV x).toNat : Int) = (((s.getV x).toNat : Int) - ((s.getV y).toNat : Int)) % 256 ∧
      ((s.getV x).toNat > (s.getV y).toNat → t.getV vf = 1) ∧ ((s.getV x).toNat < (s.getV y).toNat → t.getV vf = 0) ∧
      (∀ r, r ≠ x → r ≠ vf → t.getV r = s.getV r) ∧ SameButV s t

/-- SUBN Vx, Vy is 8XY7; with X not 15, V[X] is V[Y] - V[X] modulo 256, VF is 1 when V[Y] is greater and 0 when it is less;
nothing else changes. R147, R150. With Y = 15 it subtracts from the old VF: THE MODEL'S CHOICE (log entry 11), the spec's own
decision D7. (Equal operands and X = 15: as for SUB.) -/
def Obligations.SubtractReversedSetsNoBorrow : Prop :=
  ∀ x y : Reg,
    decodeWord (BitVec.ofNat 16 (0x8007 + 256 * x.val + 16 * y.val)) = some (.subn x y) ∧
    ∀ s : State, x ≠ vf → ∃ t, exec (.subn x y) s = .next t ∧
      ((t.getV x).toNat : Int) = (((s.getV y).toNat : Int) - ((s.getV x).toNat : Int)) % 256 ∧
      ((s.getV y).toNat > (s.getV x).toNat → t.getV vf = 1) ∧ ((s.getV y).toNat < (s.getV x).toNat → t.getV vf = 0) ∧
      (∀ r, r ≠ x → r ≠ vf → t.getV r = s.getV r) ∧ SameButV s t

/-- SHR Vx is 8XY6 with any Y; with X not 15, V[X] is halved (a logical shift by one), VF is the bit shifted out, V[Y] plays no
part and nothing else changes. R146, R150. (X = 15: ArithmeticResultOutlivesFlagInVF.) -/
def Obligations.ShiftRightSetsLowBit : Prop :=
  ∀ x y : Reg,
    decodeWord (BitVec.ofNat 16 (0x8006 + 256 * x.val + 16 * y.val)) = some (.shr x y) ∧
    ∀ s : State, x ≠ vf → ∃ t, exec (.shr x y) s = .next t ∧
      (t.getV x).toNat = (s.getV x).toNat / 2 ∧ (t.getV vf).toNat = (s.getV x).toNat % 2 ∧
      (∀ r, r ≠ x → r ≠ vf → t.getV r = s.getV r) ∧ SameButV s t

/-- SHL Vx is 8XYE with any Y; with X not 15, V[X] is doubled modulo 256, VF is bit 7 of the old V[X], V[Y] plays no part and
nothing else changes. R148, R150. (X = 15: ArithmeticResultOutlivesFlagInVF.) -/
def Obligations.ShiftLeftSetsHighBit : Prop :=
  ∀ x y : Reg,
    decodeWord (BitVec.ofNat 16 (0x800E + 256 * x.val + 16 * y.val)) = some (.shl x y) ∧
    ∀ s : State, x ≠ vf → ∃ t, exec (.shl x y) s = .next t ∧
      (t.getV x).toNat = 2 * (s.getV x).toNat % 256 ∧ (t.getV vf).toNat = (if (s.getV x).toNat ≥ 128 then 1 else 0) ∧
      (∀ r, r ≠ x → r ≠ vf → t.getV r = s.getV r) ∧ SameButV s t

/-- THE MODEL'S CHOICE (log entry 11), the spec's own decision D7 (reading A of U3): with X = 15 the five arithmetic and shift
instructions leave their RESULT in VF and the flag is lost; nothing else changes. -/
def Obligations.ArithmeticResultOutlivesFlagInVF : Prop :=
  ∀ (y : Reg) (s : State),
    (∃ t, exec (.addReg vf y) s = .next t ∧ (t.getV vf).toNat = ((s.getV vf).toNat + (s.getV y).toNat) % 256 ∧
      SameVBut vf s t ∧ SameButV s t) ∧
    (∃ t, exec (.sub vf y) s = .next t ∧
      ((t.getV vf).toNat : Int) = (((s.getV vf).toNat : Int) - ((s.getV y).toNat : Int)) % 256 ∧
      SameVBut vf s t ∧ SameButV s t) ∧
    (∃ t, exec (.subn vf y) s = .next t ∧
      ((t.getV vf).toNat : Int) = (((s.getV y).toNat : Int) - ((s.getV vf).toNat : Int)) % 256 ∧
      SameVBut vf s t ∧ SameButV s t) ∧
    (∃ t, exec (.shr vf y) s = .next t ∧ (t.getV vf).toNat = (s.getV vf).toNat / 2 ∧ SameVBut vf s t ∧ SameButV s t) ∧
    (∃ t, exec (.shl vf y) s = .next t ∧ (t.getV vf).toNat = 2 * (s.getV vf).toNat % 256 ∧
      SameVBut vf s t ∧ SameButV s t)

/-- THE MODEL'S CHOICE (log entry 12), the spec's own decision D8 (90_conflicts.md C4): SUB and SUBN of equal operands give the
result 0 and clear VF. For X or Y = 15 the result 0 too is THE MODEL'S CHOICE (log entry 11), the spec's own decision D7: the
operands are read before VF is written. -/
def Obligations.EqualOperandsClearSubtractFlag : Prop :=
  ∀ (x y : Reg) (s : State), s.getV x = s.getV y →
    (∃ t, exec (.sub x y) s = .next t ∧ t.getV x = 0 ∧ t.getV vf = 0) ∧
    ∃ t, exec (.subn x y) s = .next t ∧ t.getV x = 0 ∧ t.getV vf = 0

/-! ### LD I and RND (spec/43_index_random.md) -/

/-- LD I, addr is ANNN; `I` becomes the zero-extended address field, bits 15 to 12 included; nothing else changes. R160. -/
def Obligations.LoadIndexSetsI : Prop :=
  ∀ nnn : AddrField,
    decodeWord (BitVec.ofNat 16 (0xA000 + nnn.toNat)) = some (.ldI nnn) ∧
    ∀ s : State, ∃ t, exec (.ldI nnn) s = .next t ∧ t.i.toNat = nnn.toNat ∧
      SameV s t ∧ SameUntouchable s t ∧ t.pc = s.pc ∧ t.sp = s.sp ∧ t.stack = s.stack ∧ t.display = s.display ∧
      t.drawFlag = s.drawFlag ∧ t.draws = s.draws

/-- RND Vx, byte is CXNN; V[X] becomes a free byte masked by NN: the byte is Config.randomByte of the machine's stream and the
draw's number, of which nothing is known, and the next draw has the next number (the model's form of a fresh byte: log entry 1);
nothing else changes.
R161. -/
def Obligations.RandomMasksAFreeByte : Prop :=
  ∀ (x : Reg) (nn : Byte),
    decodeWord (BitVec.ofNat 16 (0xC000 + 256 * x.val + nn.toNat)) = some (.rnd x nn) ∧
    ∀ s : State, ∃ t, exec (.rnd x nn) s = .next t ∧ t.getV x = (Config.randomByte s.stream s.draws &&& nn) ∧
      t.draws = s.draws + 1 ∧ SameVBut x s t ∧ SameUntouchable s t ∧ t.i = s.i ∧ t.pc = s.pc ∧ t.sp = s.sp ∧
      t.stack = s.stack ∧ t.display = s.display ∧ t.drawFlag = s.drawFlag

/-! ### DRW (spec/44_draw.md) -/

/-- DRW Vx, Vy, n is DXYN; with neither X nor Y 15 and the sprite in memory, it has the effect DrawEffect: an XOR of the clipped
sprite onto the display, VF the collision, the draw flag set, nothing else. The loops of the meaning refine this cell by cell
description. R170, R173, R174, R175. -/
def Obligations.DrawXorsClippedSprite : Prop :=
  ∀ (x y : Reg) (n : Height),
    decodeWord (BitVec.ofNat 16 (0xD000 + 256 * x.val + 16 * y.val + n.toNat)) = some (.drw x y n) ∧
    ∀ s : State, x ≠ vf → y ≠ vf → s.SpriteInMemory n → ∃ t, exec (.drw x y n) s = .next t ∧ DrawEffect x y n s t

/-- THE MODEL'S CHOICE (log entry 11), the spec's own decision D7: with X or Y 15 the start coordinate comes from the VF before
the instruction, and VF is then overwritten by the collision flag; the effect is DrawEffect as for any other register. -/
def Obligations.DrawReadsCoordinatesBeforeClearingVF : Prop :=
  ∀ (x y : Reg) (n : Height) (s : State), (x = vf ∨ y = vf) → s.SpriteInMemory n →
    ∃ t, exec (.drw x y n) s = .next t ∧ DrawEffect x y n s t

/-- THE MODEL'S CHOICE (log entry 9), the spec's own decision D5: a sprite that leaves memory faults, at the first row address
above 0xFFF: `I` itself if it is already beyond, else 0x1000. -/
def Obligations.DrawFaultsAtFirstRowBeyondMemory : Prop :=
  ∀ (x y : Reg) (n : Height) (s : State), ¬ s.SpriteInMemory n →
    exec (.drw x y n) s = .fault (.dataOutOfBounds (if s.i.toNat < 0x1000 then 0x1000 else s.i.toNat))

/-- Drawing the same sprite twice at the same location erases it: the display is as before the first draw, and VF after the
second is 1 when some set pixel is on screen and was drawn on a blank cell. R176 case 3. For
X or Y = 15 it rests on THE MODEL'S CHOICE (log entry 11), the spec's own decision D7. -/
def Obligations.DrawingTwiceErases : Prop :=
  ∀ (x y : Reg) (n : Height) (s t u : State), exec (.drw x y n) s = .next t →
    (t.getV x).toNat % 64 = (s.getV x).toNat % 64 → (t.getV y).toNat % 32 = (s.getV y).toNat % 32 →
    exec (.drw x y n) t = .next u →
    u.display = s.display ∧
    ((∃ px py, s.Covers ((s.getV x).toNat % 64) ((s.getV y).toNat % 32) n px py ∧
      s.display.cell (px + 64 * py) = false) → u.getV vf = 1)

/-! ### Whole-machine rules (spec/10_state.md, spec/20_memory.md, spec/60_exceptions.md) -/

/-- Every instruction ends in a next state but for DRW with a sprite that leaves memory, which is the fault DataOutOfBounds with
an address above 0xFFF; none refuses. R180, R187 (the spec's own decision D5: log entry 9). -/
def Obligations.OnlyDrawCanFault : Prop :=
  ∀ (i : Instr) (s : State),
    ((∀ x y n, i = .drw x y n → s.SpriteInMemory n) → ∃ t, exec i s = .next t) ∧
    (∀ f, exec i s = .fault f → ∃ x y n a, i = .drw x y n ∧ ¬ s.SpriteInMemory n ∧ f = .dataOutOfBounds a ∧ 0x0FFF < a) ∧
    (∀ r, exec i s ≠ .refused r)

/-- No instruction writes main memory, the keypad or a timer (nor FONT, nor the model's stream and report). R64, R34, R193. -/
def Obligations.NoInstructionWritesMemoryKeypadTimers : Prop :=
  ∀ (i : Instr) (s t : State), exec i s = .next t → SameUntouchable s t ∧ t.mem = s.mem

/-- Only LD I writes `I`; only CALL and RET write `sp`, only CALL the stack; only CLS and DRW write the display; the draw flag is
set by CLS and DRW and never cleared; only RND draws a free value. R20, R25, R26, R28. -/
def Obligations.EachPartHasItsWriters : Prop :=
  ∀ (i : Instr) (s t : State), exec i s = .next t →
    ((∀ nnn, i ≠ .ldI nnn) → t.i = s.i) ∧
    ((∀ nnn, i ≠ .call nnn) → t.stack = s.stack ∧ (i ≠ .ret → t.sp = s.sp)) ∧
    ((i ≠ .cls ∧ ∀ x y n, i ≠ .drw x y n) → t.display = s.display ∧ t.drawFlag = s.drawFlag) ∧
    ((i = .cls ∨ ∃ x y n, i = .drw x y n) → t.drawFlag = true) ∧
    ((∀ x nn, i ≠ .rnd x nn) → t.draws = s.draws)

/-- The general registers' frame: an instruction writes only its destination V[X] and, if it is one of the six flag writers, VF;
a flag written to VF that is not then overwritten by the result is exactly 0 or 1. R21, R22, R23. -/
def Obligations.GeneralRegistersFrame : Prop :=
  ∀ (i : Instr) (s t : State), exec i s = .next t →
    (∀ r, destReg i ≠ some r → (r = vf → writesFlag i = false) → t.getV r = s.getV r) ∧
    (writesFlag i = true → destReg i ≠ some vf → t.getV vf = 0 ∨ t.getV vf = 1)

/-- How each instruction leaves `pc`, from the address it was fetched at: JP and a taken CALL to the address field, a taken RET
to the popped address, everything else and every unknown word to the fetch address plus 2. R30. -/
def Obligations.PcAfterEveryStep : Prop :=
  ∀ (s t : State) (w : Word), s.fetchWord = some w → step s = .next t →
    (∀ i, decodeWord w = some i → t.pc.toNat = pcAfter i s) ∧ (decodeWord w = none → t.pc.toNat = s.pc.toNat + 2)

/-- What a program computes does not depend on the keypad, the timers or the draw flag (nor on the model's report): two states
that differ in those alone step to states that differ in those alone, or fault alike. R28, R34, R193. -/
def Obligations.ProgramsCannotObserveHostState : Prop :=
  ∀ s s' : State, SameProgramView s s' →
    (∀ t, step s = .next t → ∃ t', step s' = .next t' ∧ SameProgramView t t') ∧
    (∀ f, step s = .fault f → step s' = .fault f)

/-- Every step keeps the invariants of R40, from every state that has them, reachable or not; and it keeps both timers, FONT and
the stream of free values. -/
def Obligations.StepKeepsInvariants : Prop :=
  ∀ s t : State, s.Inv → step s = .next t → t.Inv ∧ t.dt = s.dt ∧ t.st = s.st ∧ t.font = s.font ∧ t.stream = s.stream

/-- Every command and host access keeps the invariants of R40, and keeps both timers at 0 once they are; none
raises a timer (R192, R193), and none changes FONT (R10, R20) or the machine's stream of free values (R201). -/
def Obligations.CommandsKeepInvariants : Prop :=
  ∀ (c : Command) (m : System),
    (m.Holds State.Inv → (command c m).1.Holds State.Inv) ∧
    (m.Holds State.TimersZero → (command c m).1.Holds State.TimersZero) ∧
    (command c m).1.state.dt.toNat ≤ m.state.dt.toNat ∧ (command c m).1.state.st.toNat ≤ m.state.st.toNat ∧
    (command c m).1.state.font = m.state.font ∧ (command c m).1.state.stream = m.state.stream

/-- For every FONT, in every state reachable from a launch state by the commands and the host's accesses, in any interleaving,
every row of R40 but the last holds: `sp`, `I`, `pc`, the stack, the memory below 0x200 (a display cell is one bit by its type).
No timer is above its launch value, so that the last row, both timers at 0, holds of every state reachable from `reset`, whose
timers are 0 (R193). -/
def Obligations.ReachableStatesSatisfyInvariants : Prop :=
  ∀ (font : Config.Font) (dt st : Byte) (m : System), Reachable font dt st m → m.Holds fun s =>
    s.sp.val ≤ 16 ∧ s.i.toNat ≤ 0x0FFF ∧ s.pc.toNat ≤ 0x1000 ∧ (∀ k (h : k < 16), s.stack[k].toNat ≤ 0x1000) ∧
    (∀ a, a < 0x200 → (a < 0x050 ∨ 0x09F < a) → s.readByte a = some 0) ∧
    (∀ j, j < 80 → s.readByte (0x050 + j) = some (Config.fontByte font j)) ∧
    s.dt.toNat ≤ dt.toNat ∧ s.st.toNat ≤ st.toNat ∧ (dt = 0 → s.dt = 0) ∧ (st = 0 → s.st = 0)
end

