-- ==== Sys2Proof/Laws/Decode.lean ====
section
/-! SUPPORT. Fields and words as numbers, what each field of an encoded word is, and how words and bytes correspond
(spec/30_encoding.md R92, R93). -/

namespace Sys2Proof

/-! ### Fields and formats as numbers -/

theorem fieldOP_toNat (w : Word) : (fieldOP w).toNat = w.toNat / 4096 % 16 := by
  simp [fieldOP, Nat.shiftRight_eq_div_pow]

theorem fieldX_val (w : Word) : (fieldX w).val = w.toNat / 256 % 16 := by
  show (w.extractLsb' 8 4).toNat = _
  simp [Nat.shiftRight_eq_div_pow]

theorem fieldY_val (w : Word) : (fieldY w).val = w.toNat / 16 % 16 := by
  show (w.extractLsb' 4 4).toNat = _
  simp [Nat.shiftRight_eq_div_pow]

theorem fieldN_toNat (w : Word) : (fieldN w).toNat = w.toNat % 16 := by
  simp [fieldN]

theorem fieldNN_toNat (w : Word) : (fieldNN w).toNat = w.toNat % 256 := by
  simp [fieldNN]

theorem fieldNNN_toNat (w : Word) : (fieldNNN w).toNat = w.toNat % 4096 := by
  simp [fieldNNN]

/-- Two bit vectors side by side, as a number. -/
theorem append_toNat {m n : Nat} (a : BitVec m) (b : BitVec n) : (a ++ b).toNat = a.toNat * 2 ^ n + b.toNat := by
  rw [BitVec.toNat_append, ← Nat.shiftLeft_add_eq_or_of_lt b.isLt, Nat.shiftLeft_eq]

theorem formatA_toNat (op : BitVec 4) (nnn : AddrField) : (formatA op nnn).toNat = op.toNat * 4096 + nnn.toNat :=
  append_toNat op nnn

theorem regBits_toNat (x : Reg) : (regBits x).toNat = x.val := rfl

theorem formatI_toNat (op : BitVec 4) (x : Reg) (nn : Byte) :
    (formatI op x nn).toNat = op.toNat * 4096 + x.val * 256 + nn.toNat := by
  have low : (regBits x ++ nn).toNat = x.val * 256 + nn.toNat := append_toNat (regBits x) nn
  have all : (formatI op x nn).toNat = op.toNat * 4096 + (regBits x ++ nn).toNat := append_toNat op (regBits x ++ nn)
  rw [all, low, Nat.add_assoc]

theorem formatR_toNat (op : BitVec 4) (x y : Reg) (n : BitVec 4) :
    (formatR op x y n).toNat = op.toNat * 4096 + x.val * 256 + y.val * 16 + n.toNat := by
  have low : (regBits y ++ n).toNat = y.val * 16 + n.toNat := append_toNat (regBits y) n
  have mid : (regBits x ++ (regBits y ++ n)).toNat = x.val * 256 + (regBits y ++ n).toNat :=
    append_toNat (regBits x) (regBits y ++ n)
  have all : (formatR op x y n).toNat = op.toNat * 4096 + (regBits x ++ (regBits y ++ n)).toNat :=
    append_toNat op (regBits x ++ (regBits y ++ n))
  rw [all, mid, low, Nat.add_assoc, Nat.add_assoc]

/-! ### The formats' fields -/

@[simp] theorem fieldOP_formatA (op : BitVec 4) (nnn : AddrField) : fieldOP (formatA op nnn) = op := by
  apply BitVec.eq_of_toNat_eq
  rw [fieldOP_toNat, formatA_toNat]
  omega

@[simp] theorem fieldNNN_formatA (op : BitVec 4) (nnn : AddrField) : fieldNNN (formatA op nnn) = nnn := by
  apply BitVec.eq_of_toNat_eq
  rw [fieldNNN_toNat, formatA_toNat]
  omega

@[simp] theorem fieldOP_formatI (op : BitVec 4) (x : Reg) (nn : Byte) : fieldOP (formatI op x nn) = op := by
  apply BitVec.eq_of_toNat_eq
  rw [fieldOP_toNat, formatI_toNat]
  omega

@[simp] theorem fieldX_formatI (op : BitVec 4) (x : Reg) (nn : Byte) : fieldX (formatI op x nn) = x := by
  apply Fin.ext
  rw [fieldX_val, formatI_toNat]
  omega

@[simp] theorem fieldNN_formatI (op : BitVec 4) (x : Reg) (nn : Byte) : fieldNN (formatI op x nn) = nn := by
  apply BitVec.eq_of_toNat_eq
  rw [fieldNN_toNat, formatI_toNat]
  omega

@[simp] theorem fieldOP_formatR (op : BitVec 4) (x y : Reg) (n : BitVec 4) : fieldOP (formatR op x y n) = op := by
  apply BitVec.eq_of_toNat_eq
  rw [fieldOP_toNat, formatR_toNat]
  omega

@[simp] theorem fieldX_formatR (op : BitVec 4) (x y : Reg) (n : BitVec 4) : fieldX (formatR op x y n) = x := by
  apply Fin.ext
  rw [fieldX_val, formatR_toNat]
  omega

@[simp] theorem fieldY_formatR (op : BitVec 4) (x y : Reg) (n : BitVec 4) : fieldY (formatR op x y n) = y := by
  apply Fin.ext
  rw [fieldY_val, formatR_toNat]
  omega

@[simp] theorem fieldN_formatR (op : BitVec 4) (x y : Reg) (n : BitVec 4) : fieldN (formatR op x y n) = n := by
  apply BitVec.eq_of_toNat_eq
  rw [fieldN_toNat, formatR_toNat]
  omega

/-! ### A word is its fields -/

theorem formatA_fields (w : Word) : formatA (fieldOP w) (fieldNNN w) = w := by
  apply BitVec.eq_of_toNat_eq
  rw [formatA_toNat, fieldOP_toNat, fieldNNN_toNat]
  omega

theorem formatI_fields (w : Word) : formatI (fieldOP w) (fieldX w) (fieldNN w) = w := by
  apply BitVec.eq_of_toNat_eq
  rw [formatI_toNat, fieldOP_toNat, fieldX_val, fieldNN_toNat]
  omega

theorem formatR_fields (w : Word) : formatR (fieldOP w) (fieldX w) (fieldY w) (fieldN w) = w := by
  apply BitVec.eq_of_toNat_eq
  rw [formatR_toNat, fieldOP_toNat, fieldX_val, fieldY_val, fieldN_toNat]
  omega

/-! ### Words and bytes -/

/-- A fetched word is `(high << 8) | low` as a number (R67, R91). -/
theorem wordOfBytes_toNat (hi lo : Byte) : (wordOfBytes hi lo).toNat = hi.toNat * 256 + lo.toNat :=
  append_toNat hi lo

theorem highByte_toNat (w : Word) : (highByte w).toNat = w.toNat / 256 := by
  have := w.isLt
  simp [highByte, Nat.shiftRight_eq_div_pow]
  omega

theorem lowByte_toNat (w : Word) : (lowByte w).toNat = w.toNat % 256 := by
  simp [lowByte]

/-- The two bytes of a word form it again (R67). -/
@[simp] theorem wordOfBytes_bytes (w : Word) : wordOfBytes (highByte w) (lowByte w) = w := by
  apply BitVec.eq_of_toNat_eq
  rw [wordOfBytes_toNat, highByte_toNat, lowByte_toNat]
  omega

end Sys2Proof
end

