-- ==== Sys2Proof/Laws/Flags.lean ====
section
/-! SUPPORT. The flag computations and results as numbers (spec/42_alu.md R149, R150). -/

namespace Sys2Proof.Machine

@[simp] theorem flagByte_true : flagByte true = 1 := rfl

@[simp] theorem flagByte_false : flagByte false = 0 := rfl

theorem flagByte_toNat (c : Bool) : (flagByte c).toNat = if c then 1 else 0 := by
  cases c <;> rfl

/-- A flag is exactly 0 or 1 (R23). -/
theorem flagByte_zero_or_one (c : Bool) : flagByte c = 0 ∨ flagByte c = 1 := by
  cases c <;> simp

theorem carryOut_toNat (a b : Byte) : (carryOut a b).toNat = if a.toNat + b.toNat > 255 then 1 else 0 := by
  rw [carryOut, flagByte_toNat]
  simp

theorem strictlyGreater_toNat (a b : Byte) : (strictlyGreater a b).toNat = if a.toNat > b.toNat then 1 else 0 := by
  rw [strictlyGreater, flagByte_toNat]
  simp

theorem lowBit_toNat (a : Byte) : (lowBit a).toNat = a.toNat % 2 := by
  have h : a.getLsbD 0 = decide (a.toNat % 2 = 1) := by
    simp [BitVec.getLsbD, Nat.testBit, Nat.one_and_eq_mod_two, Bool.beq_eq_decide_eq]
  rw [lowBit, flagByte_toNat, h]
  split <;> simp_all

theorem highBit_toNat (a : Byte) : (highBit a).toNat = a.toNat / 128 := by
  have hlt := a.isLt
  have h : a.getLsbD 7 = decide (a.toNat / 128 % 2 = 1) := by
    simp [BitVec.getLsbD, Nat.testBit, Nat.one_and_eq_mod_two, Nat.shiftRight_eq_div_pow,
      Bool.beq_eq_decide_eq]
  rw [highBit, flagByte_toNat, h]
  split <;> simp_all <;> omega

theorem wrapSum_toNat (a b : Byte) : (wrapSum a b).toNat = (a.toNat + b.toNat) % 256 := by
  simp [wrapSum]

theorem wrapDiff_toNat (a b : Byte) : (wrapDiff a b).toNat = (a.toNat + (256 - b.toNat)) % 256 := by
  have := a.isLt
  have := b.isLt
  rw [wrapDiff, BitVec.toNat_ofInt]
  omega

/-- The difference as an integer, reduced modulo 256 (R145). -/
theorem wrapDiff_toInt (a b : Byte) : ((wrapDiff a b).toNat : Int) = ((a.toNat : Int) - b.toNat) % 256 := by
  have := a.isLt
  have := b.isLt
  rw [wrapDiff, BitVec.toNat_ofInt]
  omega

theorem shiftRight1_toNat (a : Byte) : (shiftRight1 a).toNat = a.toNat / 2 := by
  have := a.isLt
  simp only [shiftRight1, BitVec.toNat_ofNat]
  omega

theorem shiftLeft1_toNat (a : Byte) : (shiftLeft1 a).toNat = 2 * a.toNat % 256 := by
  simp [shiftLeft1]

theorem zextAddr_toNat (nnn : AddrField) : (zextAddr nnn).toNat = nnn.toNat := by
  have := nnn.isLt
  simp only [zextAddr, BitVec.toNat_setWidth]
  omega

end Sys2Proof.Machine
end

