-- ==== Sys2Proof/Laws/Memory.lean ====
section
/-! SUPPORT. The laws of memory: a read after a write, the canonical form, and byte sequences (spec/20_memory.md R63, R66). -/

namespace Sys2Proof.Machine

variable {font : Config.Font}

theorem Memory.read_of_lt (m : Memory) {a : Nat} (h : a < Config.memSize) : m.read font a = some (m.lookup font a) := by
  simp [Memory.read, h]

theorem Memory.read_of_ge (m : Memory) {a : Nat} (h : Config.memSize ≤ a) : m.read font a = none := by
  simp [Memory.read, Nat.not_lt.mpr h]

/-- A read answers a byte exactly inside memory (R66). -/
theorem Memory.read_isSome (m : Memory) (a : Nat) : (m.read font a).isSome ↔ a < Config.memSize := by
  unfold Memory.read
  split <;> simp_all

theorem Memory.read_empty {a : Nat} (h : a < Config.memSize) : Memory.read font [] a = some (Memory.initial font a) :=
  Memory.read_of_lt [] h

/-- Below every listed address, memory reads as `reset` left it. -/
theorem Memory.lookup_of_lt_all {m : Memory} {a : Nat} (h : ∀ c ∈ m, a < c.1) : m.lookup font a = Memory.initial font a := by
  induction m with
  | nil => rfl
  | cons c rest ih =>
    have hc := h c (by simp)
    simp only [Memory.lookup]
    rw [if_neg (by omega)]
    exact ih fun d hd => h d (by simp [hd])

/-- Setting a byte changes what that address holds, and nothing else. -/
theorem Memory.lookup_put {m : Memory} (hm : m.Pairwise fun c d => c.1 < d.1) (a : Nat) (b : Byte) (a' : Nat) :
    (m.put font a b).lookup font a' = if a' = a then b else m.lookup font a' := by
  induction m with
  | nil =>
    unfold Memory.put
    split <;> simp only [Memory.lookup] <;> split <;> simp_all [eq_comm]
  | cons c rest ih =>
    obtain ⟨k, v⟩ := c
    rw [List.pairwise_cons] at hm
    obtain ⟨hk, hrest⟩ := hm
    unfold Memory.put
    split
    · next hlt =>
      have low : ∀ c ∈ (k, v) :: rest, a < c.1 := by
        intro c hc
        rcases List.mem_cons.mp hc with rfl | hc
        · exact hlt
        · exact Nat.lt_trans hlt (hk c hc)
      split
      · next hb =>
        split
        · next e => rw [e, Memory.lookup_of_lt_all low, hb]
        · rfl
      · rw [Memory.lookup]
        split
        · next e => rw [if_pos e.symm]
        · next e => rw [if_neg (Ne.symm e)]
    · split
      · next hnlt hak =>
        subst hak
        split
        · next hb =>
          split
          · next e => rw [e, Memory.lookup_of_lt_all (fun c hc => hk c hc), hb]
          · next e => rw [Memory.lookup, if_neg (Ne.symm e)]
        · rw [Memory.lookup]
          split
          · simp_all
          · next e => rw [if_neg (Ne.symm e), Memory.lookup, if_neg e]
      · next hnlt hne =>
        rw [Memory.lookup, ih hrest, Memory.lookup]
        split
        · next e => rw [if_neg (by omega)]
        · rfl

/-- A read after a write: the byte written at that address, the old byte at every other (R73). -/
theorem Memory.read_write {m : Memory} (hm : m.wf font) {a : Nat} (ha : a < Config.memSize) (b : Byte) (a' : Nat) :
    (m.write font a b).read font a' = if a' = a then some b else m.read font a' := by
  by_cases h' : a' < Config.memSize
  · rw [Memory.read_of_lt _ h', Memory.write, if_pos ha, Memory.lookup_put hm.1, Memory.read_of_lt _ h']
    split <;> rfl
  · rw [Memory.read_of_ge _ (by omega), Memory.read_of_ge _ (by omega), if_neg (by omega)]

theorem Memory.put_mem {m : Memory} {a : Nat} {b : Byte} {c : Host.Cell} (hc : c ∈ m.put font a b) :
    c ∈ m ∨ (c = (a, b) ∧ b ≠ Memory.initial font a) := by
  induction m with
  | nil =>
    unfold Memory.put at hc
    split at hc <;> simp_all
  | cons d rest ih =>
    obtain ⟨k, v⟩ := d
    unfold Memory.put at hc
    split at hc
    · split at hc
      · exact .inl hc
      · next hb =>
        rcases List.mem_cons.mp hc with rfl | hc
        · exact .inr ⟨rfl, hb⟩
        · exact .inl hc
    · split at hc
      · split at hc
        · exact .inl (List.mem_cons_of_mem _ hc)
        · next hb =>
          rcases List.mem_cons.mp hc with rfl | hc
          · exact .inr ⟨rfl, hb⟩
          · exact .inl (List.mem_cons_of_mem _ hc)
      · rcases List.mem_cons.mp hc with rfl | hc
        · exact .inl (by simp)
        · rcases ih hc with h | h
          · exact .inl (List.mem_cons_of_mem _ h)
          · exact .inr h

theorem Memory.put_sorted {m : Memory} (hm : m.Pairwise fun c d => c.1 < d.1) (a : Nat) (b : Byte) :
    (m.put font a b).Pairwise fun c d => c.1 < d.1 := by
  induction m with
  | nil =>
    unfold Memory.put
    split <;> simp
  | cons d rest ih =>
    obtain ⟨k, v⟩ := d
    have hcons := hm
    rw [List.pairwise_cons] at hm
    obtain ⟨hk, hrest⟩ := hm
    unfold Memory.put
    split
    · next hlt =>
      split
      · exact hcons
      · refine List.pairwise_cons.mpr ⟨fun c hc => ?_, hcons⟩
        rcases List.mem_cons.mp hc with rfl | hc
        · exact hlt
        · exact Nat.lt_trans hlt (hk c hc)
    · split
      · next hak =>
        split
        · exact hrest
        · exact List.pairwise_cons.mpr ⟨fun c hc => hak ▸ hk c hc, hrest⟩
      · next hnlt hne =>
        refine List.pairwise_cons.mpr ⟨fun c hc => ?_, ih hrest⟩
        rcases Memory.put_mem hc with h | ⟨rfl, -⟩
        · exact hk c h
        · show k < a
          omega

/-- A write keeps the canonical form. -/
theorem Memory.write_wf {m : Memory} (hm : m.wf font) (a : Nat) (b : Byte) : (m.write font a b).wf font := by
  unfold Memory.write
  split
  · next ha =>
    refine ⟨Memory.put_sorted hm.1 a b, fun c hc => ?_⟩
    rcases Memory.put_mem hc with h | ⟨rfl, hb⟩
    · exact hm.2 c h
    · exact ⟨ha, hb⟩
  · exact hm

/-- Writing a byte sequence keeps the canonical form. -/
theorem Memory.writeBytes_wf {m : Memory} (hm : m.wf font) (a : Nat) (bytes : List Byte) : (m.writeBytes font a bytes).wf font := by
  induction bytes generalizing m a with
  | nil => exact hm
  | cons b rest ih => exact ih (Memory.write_wf hm a b) (a + 1)

/-- Placing a word keeps the canonical form. -/
theorem Memory.writeWord_wf {m : Memory} (hm : m.wf font) (a : Nat) (w : Word) : (m.writeWord font a w).wf font :=
  Memory.write_wf (Memory.write_wf hm _ _) _ _

/-- A byte sequence written inside memory reads back, and every other address reads as before. -/
theorem Memory.read_writeBytes {m : Memory} (hm : m.wf font) (a : Nat) (bytes : List Byte)
    (hfit : a + bytes.length ≤ Config.memSize) (a' : Nat) :
    (m.writeBytes font a bytes).read font a' =
      if h : a ≤ a' ∧ a' - a < bytes.length then some (bytes[a' - a]'h.2) else m.read font a' := by
  induction bytes generalizing m a with
  | nil => simp [Memory.writeBytes]
  | cons b rest ih =>
    simp only [List.length_cons] at hfit
    rw [Memory.writeBytes, ih (Memory.write_wf hm a b) (a + 1) (by omega)]
    by_cases h0 : a' = a
    · subst h0
      rw [dif_neg (by omega), dif_pos ⟨Nat.le_refl _, by simp⟩, Memory.read_write hm (by omega), if_pos rfl]
      simp
    · by_cases h1 : a ≤ a' ∧ a' - a < (b :: rest).length
      · have hlen := h1.2
        simp only [List.length_cons] at hlen
        rw [dif_pos ⟨by omega, by omega⟩, dif_pos h1]
        congr 1
        have e : a' - a = (a' - (a + 1)) + 1 := by omega
        simp only [e, List.getElem_cons_succ]
      · rw [dif_neg (by simp only [List.length_cons] at h1; omega), dif_neg h1, Memory.read_write hm (by omega), if_neg h0]

/-- Memory with nothing listed is in canonical form, whatever the FONT. -/
theorem Memory.empty_wf (font : Config.Font) : Memory.wf font [] :=
  ⟨List.Pairwise.nil, fun _ h => absurd h List.not_mem_nil⟩

/-- The reset memory is in canonical form. -/
theorem Memory.reset_wf : State.reset.MemWf := Memory.empty_wf _

/-- Memory as `reset` leaves it holds FONT at 0x050 to 0x09F (R38). -/
theorem Memory.read_empty_font (font : Config.Font) {j : Nat} (h : j < 80) :
    Memory.read font [] (0x050 + j) = some (Config.fontByte font j) := by
  rw [Memory.read_empty (by show 0x050 + j < 0x1000; omega), Memory.initial,
    if_pos (by constructor <;> simp only [Config.fontBase, Config.fontLen] <;> omega), Nat.add_sub_cancel_left]

/-- Memory as `reset` leaves it holds 0 everywhere else (R38). -/
theorem Memory.read_empty_zero (font : Config.Font) {a : Nat} (ha : a < 0x1000) (h : a < 0x050 ∨ 0x09F < a) :
    Memory.read font [] a = some 0 := by
  rw [Memory.read_empty (show a < Config.memSize from ha), Memory.initial,
    if_neg (by simp only [Config.fontBase, Config.fontLen]; omega)]

end Sys2Proof.Machine
end

