-- ==== Sys2Proof/Laws/State.lean ====
section
/-! SUPPORT. What each update of the state does to each of its fields, true by unfolding, and the laws of reading and writing
the general registers. -/

namespace Sys2Proof.Machine

/-! ### State.setV -/

@[simp] theorem State.setV_v (s : State) (x : Reg) (b : Byte) : (s.setV x b).v = s.v.set x.val b := rfl
@[simp] theorem State.setV_i (s : State) (x : Reg) (b : Byte) : (s.setV x b).i = s.i := rfl
@[simp] theorem State.setV_pc (s : State) (x : Reg) (b : Byte) : (s.setV x b).pc = s.pc := rfl
@[simp] theorem State.setV_stack (s : State) (x : Reg) (b : Byte) : (s.setV x b).stack = s.stack := rfl
@[simp] theorem State.setV_sp (s : State) (x : Reg) (b : Byte) : (s.setV x b).sp = s.sp := rfl
@[simp] theorem State.setV_display (s : State) (x : Reg) (b : Byte) : (s.setV x b).display = s.display := rfl
@[simp] theorem State.setV_keypad (s : State) (x : Reg) (b : Byte) : (s.setV x b).keypad = s.keypad := rfl
@[simp] theorem State.setV_dt (s : State) (x : Reg) (b : Byte) : (s.setV x b).dt = s.dt := rfl
@[simp] theorem State.setV_st (s : State) (x : Reg) (b : Byte) : (s.setV x b).st = s.st := rfl
@[simp] theorem State.setV_drawFlag (s : State) (x : Reg) (b : Byte) : (s.setV x b).drawFlag = s.drawFlag := rfl
@[simp] theorem State.setV_mem (s : State) (x : Reg) (b : Byte) : (s.setV x b).mem = s.mem := rfl
@[simp] theorem State.setV_font (s : State) (x : Reg) (b : Byte) : (s.setV x b).font = s.font := rfl
@[simp] theorem State.setV_stream (s : State) (x : Reg) (b : Byte) : (s.setV x b).stream = s.stream := rfl
@[simp] theorem State.setV_draws (s : State) (x : Reg) (b : Byte) : (s.setV x b).draws = s.draws := rfl
@[simp] theorem State.setV_report (s : State) (x : Reg) (b : Byte) : (s.setV x b).report = s.report := rfl

/-! ### State.setPc -/

@[simp] theorem State.setPc_v (s : State) (a : Word) : (s.setPc a).v = s.v := rfl
@[simp] theorem State.setPc_i (s : State) (a : Word) : (s.setPc a).i = s.i := rfl
@[simp] theorem State.setPc_pc (s : State) (a : Word) : (s.setPc a).pc = a := rfl
@[simp] theorem State.setPc_stack (s : State) (a : Word) : (s.setPc a).stack = s.stack := rfl
@[simp] theorem State.setPc_sp (s : State) (a : Word) : (s.setPc a).sp = s.sp := rfl
@[simp] theorem State.setPc_display (s : State) (a : Word) : (s.setPc a).display = s.display := rfl
@[simp] theorem State.setPc_keypad (s : State) (a : Word) : (s.setPc a).keypad = s.keypad := rfl
@[simp] theorem State.setPc_dt (s : State) (a : Word) : (s.setPc a).dt = s.dt := rfl
@[simp] theorem State.setPc_st (s : State) (a : Word) : (s.setPc a).st = s.st := rfl
@[simp] theorem State.setPc_drawFlag (s : State) (a : Word) : (s.setPc a).drawFlag = s.drawFlag := rfl
@[simp] theorem State.setPc_mem (s : State) (a : Word) : (s.setPc a).mem = s.mem := rfl
@[simp] theorem State.setPc_font (s : State) (a : Word) : (s.setPc a).font = s.font := rfl
@[simp] theorem State.setPc_stream (s : State) (a : Word) : (s.setPc a).stream = s.stream := rfl
@[simp] theorem State.setPc_draws (s : State) (a : Word) : (s.setPc a).draws = s.draws := rfl
@[simp] theorem State.setPc_report (s : State) (a : Word) : (s.setPc a).report = s.report := rfl

/-! ### State.setI -/

@[simp] theorem State.setI_v (s : State) (a : Word) : (s.setI a).v = s.v := rfl
@[simp] theorem State.setI_i (s : State) (a : Word) : (s.setI a).i = a := rfl
@[simp] theorem State.setI_pc (s : State) (a : Word) : (s.setI a).pc = s.pc := rfl
@[simp] theorem State.setI_stack (s : State) (a : Word) : (s.setI a).stack = s.stack := rfl
@[simp] theorem State.setI_sp (s : State) (a : Word) : (s.setI a).sp = s.sp := rfl
@[simp] theorem State.setI_display (s : State) (a : Word) : (s.setI a).display = s.display := rfl
@[simp] theorem State.setI_keypad (s : State) (a : Word) : (s.setI a).keypad = s.keypad := rfl
@[simp] theorem State.setI_dt (s : State) (a : Word) : (s.setI a).dt = s.dt := rfl
@[simp] theorem State.setI_st (s : State) (a : Word) : (s.setI a).st = s.st := rfl
@[simp] theorem State.setI_drawFlag (s : State) (a : Word) : (s.setI a).drawFlag = s.drawFlag := rfl
@[simp] theorem State.setI_mem (s : State) (a : Word) : (s.setI a).mem = s.mem := rfl
@[simp] theorem State.setI_font (s : State) (a : Word) : (s.setI a).font = s.font := rfl
@[simp] theorem State.setI_stream (s : State) (a : Word) : (s.setI a).stream = s.stream := rfl
@[simp] theorem State.setI_draws (s : State) (a : Word) : (s.setI a).draws = s.draws := rfl
@[simp] theorem State.setI_report (s : State) (a : Word) : (s.setI a).report = s.report := rfl

/-! ### State.setDrawFlag -/

@[simp] theorem State.setDrawFlag_v (s : State) : (s.setDrawFlag).v = s.v := rfl
@[simp] theorem State.setDrawFlag_i (s : State) : (s.setDrawFlag).i = s.i := rfl
@[simp] theorem State.setDrawFlag_pc (s : State) : (s.setDrawFlag).pc = s.pc := rfl
@[simp] theorem State.setDrawFlag_stack (s : State) : (s.setDrawFlag).stack = s.stack := rfl
@[simp] theorem State.setDrawFlag_sp (s : State) : (s.setDrawFlag).sp = s.sp := rfl
@[simp] theorem State.setDrawFlag_display (s : State) : (s.setDrawFlag).display = s.display := rfl
@[simp] theorem State.setDrawFlag_keypad (s : State) : (s.setDrawFlag).keypad = s.keypad := rfl
@[simp] theorem State.setDrawFlag_dt (s : State) : (s.setDrawFlag).dt = s.dt := rfl
@[simp] theorem State.setDrawFlag_st (s : State) : (s.setDrawFlag).st = s.st := rfl
@[simp] theorem State.setDrawFlag_drawFlag (s : State) : (s.setDrawFlag).drawFlag = true := rfl
@[simp] theorem State.setDrawFlag_mem (s : State) : (s.setDrawFlag).mem = s.mem := rfl
@[simp] theorem State.setDrawFlag_font (s : State) : (s.setDrawFlag).font = s.font := rfl
@[simp] theorem State.setDrawFlag_stream (s : State) : (s.setDrawFlag).stream = s.stream := rfl
@[simp] theorem State.setDrawFlag_draws (s : State) : (s.setDrawFlag).draws = s.draws := rfl
@[simp] theorem State.setDrawFlag_report (s : State) : (s.setDrawFlag).report = s.report := rfl

/-! ### State.advance -/

@[simp] theorem State.advance_v (s : State) : (s.advance).v = s.v := rfl
@[simp] theorem State.advance_i (s : State) : (s.advance).i = s.i := rfl
@[simp] theorem State.advance_pc (s : State) : (s.advance).pc = s.pc + 2 := rfl
@[simp] theorem State.advance_stack (s : State) : (s.advance).stack = s.stack := rfl
@[simp] theorem State.advance_sp (s : State) : (s.advance).sp = s.sp := rfl
@[simp] theorem State.advance_display (s : State) : (s.advance).display = s.display := rfl
@[simp] theorem State.advance_keypad (s : State) : (s.advance).keypad = s.keypad := rfl
@[simp] theorem State.advance_dt (s : State) : (s.advance).dt = s.dt := rfl
@[simp] theorem State.advance_st (s : State) : (s.advance).st = s.st := rfl
@[simp] theorem State.advance_drawFlag (s : State) : (s.advance).drawFlag = s.drawFlag := rfl
@[simp] theorem State.advance_mem (s : State) : (s.advance).mem = s.mem := rfl
@[simp] theorem State.advance_font (s : State) : (s.advance).font = s.font := rfl
@[simp] theorem State.advance_stream (s : State) : (s.advance).stream = s.stream := rfl
@[simp] theorem State.advance_draws (s : State) : (s.advance).draws = s.draws := rfl
@[simp] theorem State.advance_report (s : State) : (s.advance).report = s.report := rfl

/-! ### State.reportOk -/

@[simp] theorem State.reportOk_v (s : State) : (s.reportOk).v = s.v := rfl
@[simp] theorem State.reportOk_i (s : State) : (s.reportOk).i = s.i := rfl
@[simp] theorem State.reportOk_pc (s : State) : (s.reportOk).pc = s.pc := rfl
@[simp] theorem State.reportOk_stack (s : State) : (s.reportOk).stack = s.stack := rfl
@[simp] theorem State.reportOk_sp (s : State) : (s.reportOk).sp = s.sp := rfl
@[simp] theorem State.reportOk_display (s : State) : (s.reportOk).display = s.display := rfl
@[simp] theorem State.reportOk_keypad (s : State) : (s.reportOk).keypad = s.keypad := rfl
@[simp] theorem State.reportOk_dt (s : State) : (s.reportOk).dt = s.dt := rfl
@[simp] theorem State.reportOk_st (s : State) : (s.reportOk).st = s.st := rfl
@[simp] theorem State.reportOk_drawFlag (s : State) : (s.reportOk).drawFlag = s.drawFlag := rfl
@[simp] theorem State.reportOk_mem (s : State) : (s.reportOk).mem = s.mem := rfl
@[simp] theorem State.reportOk_font (s : State) : (s.reportOk).font = s.font := rfl
@[simp] theorem State.reportOk_stream (s : State) : (s.reportOk).stream = s.stream := rfl
@[simp] theorem State.reportOk_draws (s : State) : (s.reportOk).draws = s.draws := rfl
@[simp] theorem State.reportOk_report (s : State) : (s.reportOk).report = some .ok := rfl

/-! ### State.reportUnknown -/

@[simp] theorem State.reportUnknown_v (s : State) (w : Word) : (s.reportUnknown w).v = s.v := rfl
@[simp] theorem State.reportUnknown_i (s : State) (w : Word) : (s.reportUnknown w).i = s.i := rfl
@[simp] theorem State.reportUnknown_pc (s : State) (w : Word) : (s.reportUnknown w).pc = s.pc := rfl
@[simp] theorem State.reportUnknown_stack (s : State) (w : Word) : (s.reportUnknown w).stack = s.stack := rfl
@[simp] theorem State.reportUnknown_sp (s : State) (w : Word) : (s.reportUnknown w).sp = s.sp := rfl
@[simp] theorem State.reportUnknown_display (s : State) (w : Word) : (s.reportUnknown w).display = s.display := rfl
@[simp] theorem State.reportUnknown_keypad (s : State) (w : Word) : (s.reportUnknown w).keypad = s.keypad := rfl
@[simp] theorem State.reportUnknown_dt (s : State) (w : Word) : (s.reportUnknown w).dt = s.dt := rfl
@[simp] theorem State.reportUnknown_st (s : State) (w : Word) : (s.reportUnknown w).st = s.st := rfl
@[simp] theorem State.reportUnknown_drawFlag (s : State) (w : Word) : (s.reportUnknown w).drawFlag = s.drawFlag := rfl
@[simp] theorem State.reportUnknown_mem (s : State) (w : Word) : (s.reportUnknown w).mem = s.mem := rfl
@[simp] theorem State.reportUnknown_font (s : State) (w : Word) : (s.reportUnknown w).font = s.font := rfl
@[simp] theorem State.reportUnknown_stream (s : State) (w : Word) : (s.reportUnknown w).stream = s.stream := rfl
@[simp] theorem State.reportUnknown_draws (s : State) (w : Word) : (s.reportUnknown w).draws = s.draws := rfl
@[simp] theorem State.reportUnknown_report (s : State) (w : Word) : (s.reportUnknown w).report = some (.unknownOpcode w) := rfl

/-! ### State.writeFlagThenResult -/

@[simp] theorem State.writeFlagThenResult_v (s : State) (x : Reg) (flag result : Byte) : (s.writeFlagThenResult x flag result).v = (s.v.set vf.val flag).set x.val result := rfl
@[simp] theorem State.writeFlagThenResult_i (s : State) (x : Reg) (flag result : Byte) : (s.writeFlagThenResult x flag result).i = s.i := rfl
@[simp] theorem State.writeFlagThenResult_pc (s : State) (x : Reg) (flag result : Byte) : (s.writeFlagThenResult x flag result).pc = s.pc := rfl
@[simp] theorem State.writeFlagThenResult_stack (s : State) (x : Reg) (flag result : Byte) : (s.writeFlagThenResult x flag result).stack = s.stack := rfl
@[simp] theorem State.writeFlagThenResult_sp (s : State) (x : Reg) (flag result : Byte) : (s.writeFlagThenResult x flag result).sp = s.sp := rfl
@[simp] theorem State.writeFlagThenResult_display (s : State) (x : Reg) (flag result : Byte) : (s.writeFlagThenResult x flag result).display = s.display := rfl
@[simp] theorem State.writeFlagThenResult_keypad (s : State) (x : Reg) (flag result : Byte) : (s.writeFlagThenResult x flag result).keypad = s.keypad := rfl
@[simp] theorem State.writeFlagThenResult_dt (s : State) (x : Reg) (flag result : Byte) : (s.writeFlagThenResult x flag result).dt = s.dt := rfl
@[simp] theorem State.writeFlagThenResult_st (s : State) (x : Reg) (flag result : Byte) : (s.writeFlagThenResult x flag result).st = s.st := rfl
@[simp] theorem State.writeFlagThenResult_drawFlag (s : State) (x : Reg) (flag result : Byte) : (s.writeFlagThenResult x flag result).drawFlag = s.drawFlag := rfl
@[simp] theorem State.writeFlagThenResult_mem (s : State) (x : Reg) (flag result : Byte) : (s.writeFlagThenResult x flag result).mem = s.mem := rfl
@[simp] theorem State.writeFlagThenResult_font (s : State) (x : Reg) (flag result : Byte) : (s.writeFlagThenResult x flag result).font = s.font := rfl
@[simp] theorem State.writeFlagThenResult_stream (s : State) (x : Reg) (flag result : Byte) : (s.writeFlagThenResult x flag result).stream = s.stream := rfl
@[simp] theorem State.writeFlagThenResult_draws (s : State) (x : Reg) (flag result : Byte) : (s.writeFlagThenResult x flag result).draws = s.draws := rfl
@[simp] theorem State.writeFlagThenResult_report (s : State) (x : Reg) (flag result : Byte) : (s.writeFlagThenResult x flag result).report = s.report := rfl

/-! ### State.tickTimers -/

@[simp] theorem State.tickTimers_v (s : State) : (s.tickTimers).v = s.v := rfl
@[simp] theorem State.tickTimers_i (s : State) : (s.tickTimers).i = s.i := rfl
@[simp] theorem State.tickTimers_pc (s : State) : (s.tickTimers).pc = s.pc := rfl
@[simp] theorem State.tickTimers_stack (s : State) : (s.tickTimers).stack = s.stack := rfl
@[simp] theorem State.tickTimers_sp (s : State) : (s.tickTimers).sp = s.sp := rfl
@[simp] theorem State.tickTimers_display (s : State) : (s.tickTimers).display = s.display := rfl
@[simp] theorem State.tickTimers_keypad (s : State) : (s.tickTimers).keypad = s.keypad := rfl
@[simp] theorem State.tickTimers_dt (s : State) : (s.tickTimers).dt = tickDown s.dt := rfl
@[simp] theorem State.tickTimers_st (s : State) : (s.tickTimers).st = tickDown s.st := rfl
@[simp] theorem State.tickTimers_drawFlag (s : State) : (s.tickTimers).drawFlag = s.drawFlag := rfl
@[simp] theorem State.tickTimers_mem (s : State) : (s.tickTimers).mem = s.mem := rfl
@[simp] theorem State.tickTimers_font (s : State) : (s.tickTimers).font = s.font := rfl
@[simp] theorem State.tickTimers_stream (s : State) : (s.tickTimers).stream = s.stream := rfl
@[simp] theorem State.tickTimers_draws (s : State) : (s.tickTimers).draws = s.draws := rfl
@[simp] theorem State.tickTimers_report (s : State) : (s.tickTimers).report = s.report := rfl

/-! ### State.clearDrawFlag -/

@[simp] theorem State.clearDrawFlag_v (s : State) : (s.clearDrawFlag).v = s.v := rfl
@[simp] theorem State.clearDrawFlag_i (s : State) : (s.clearDrawFlag).i = s.i := rfl
@[simp] theorem State.clearDrawFlag_pc (s : State) : (s.clearDrawFlag).pc = s.pc := rfl
@[simp] theorem State.clearDrawFlag_stack (s : State) : (s.clearDrawFlag).stack = s.stack := rfl
@[simp] theorem State.clearDrawFlag_sp (s : State) : (s.clearDrawFlag).sp = s.sp := rfl
@[simp] theorem State.clearDrawFlag_display (s : State) : (s.clearDrawFlag).display = s.display := rfl
@[simp] theorem State.clearDrawFlag_keypad (s : State) : (s.clearDrawFlag).keypad = s.keypad := rfl
@[simp] theorem State.clearDrawFlag_dt (s : State) : (s.clearDrawFlag).dt = s.dt := rfl
@[simp] theorem State.clearDrawFlag_st (s : State) : (s.clearDrawFlag).st = s.st := rfl
@[simp] theorem State.clearDrawFlag_drawFlag (s : State) : (s.clearDrawFlag).drawFlag = false := rfl
@[simp] theorem State.clearDrawFlag_mem (s : State) : (s.clearDrawFlag).mem = s.mem := rfl
@[simp] theorem State.clearDrawFlag_font (s : State) : (s.clearDrawFlag).font = s.font := rfl
@[simp] theorem State.clearDrawFlag_stream (s : State) : (s.clearDrawFlag).stream = s.stream := rfl
@[simp] theorem State.clearDrawFlag_draws (s : State) : (s.clearDrawFlag).draws = s.draws := rfl
@[simp] theorem State.clearDrawFlag_report (s : State) : (s.clearDrawFlag).report = s.report := rfl

/-! ### State.writeKeypad -/

@[simp] theorem State.writeKeypad_v (s : State) (keys : Vector Bool 16) : (s.writeKeypad keys).v = s.v := rfl
@[simp] theorem State.writeKeypad_i (s : State) (keys : Vector Bool 16) : (s.writeKeypad keys).i = s.i := rfl
@[simp] theorem State.writeKeypad_pc (s : State) (keys : Vector Bool 16) : (s.writeKeypad keys).pc = s.pc := rfl
@[simp] theorem State.writeKeypad_stack (s : State) (keys : Vector Bool 16) : (s.writeKeypad keys).stack = s.stack := rfl
@[simp] theorem State.writeKeypad_sp (s : State) (keys : Vector Bool 16) : (s.writeKeypad keys).sp = s.sp := rfl
@[simp] theorem State.writeKeypad_display (s : State) (keys : Vector Bool 16) : (s.writeKeypad keys).display = s.display := rfl
@[simp] theorem State.writeKeypad_keypad (s : State) (keys : Vector Bool 16) : (s.writeKeypad keys).keypad = keys := rfl
@[simp] theorem State.writeKeypad_dt (s : State) (keys : Vector Bool 16) : (s.writeKeypad keys).dt = s.dt := rfl
@[simp] theorem State.writeKeypad_st (s : State) (keys : Vector Bool 16) : (s.writeKeypad keys).st = s.st := rfl
@[simp] theorem State.writeKeypad_drawFlag (s : State) (keys : Vector Bool 16) : (s.writeKeypad keys).drawFlag = s.drawFlag := rfl
@[simp] theorem State.writeKeypad_mem (s : State) (keys : Vector Bool 16) : (s.writeKeypad keys).mem = s.mem := rfl
@[simp] theorem State.writeKeypad_font (s : State) (keys : Vector Bool 16) : (s.writeKeypad keys).font = s.font := rfl
@[simp] theorem State.writeKeypad_stream (s : State) (keys : Vector Bool 16) : (s.writeKeypad keys).stream = s.stream := rfl
@[simp] theorem State.writeKeypad_draws (s : State) (keys : Vector Bool 16) : (s.writeKeypad keys).draws = s.draws := rfl
@[simp] theorem State.writeKeypad_report (s : State) (keys : Vector Bool 16) : (s.writeKeypad keys).report = s.report := rfl

/-! ### General registers -/

@[simp] theorem State.getV_setV_self (s : State) (x : Reg) (b : Byte) : (s.setV x b).getV x = b := by
  simp [State.getV]

theorem State.getV_setV_ne (s : State) {x r : Reg} (b : Byte) (h : r ≠ x) : (s.setV x b).getV r = s.getV r := by
  have : x.val ≠ r.val := fun e => h (Fin.ext e.symm)
  simp [State.getV, Vector.getElem_set_ne, this]

/-- A register read after a register write. -/
theorem State.getV_setV (s : State) (x r : Reg) (b : Byte) :
    (s.setV x b).getV r = if r = x then b else s.getV r := by
  split
  · next h => subst h; simp
  · next h => exact s.getV_setV_ne b h

@[simp] theorem State.writeFlagThenResult_getV_self (s : State) (x : Reg) (flag result : Byte) :
    (s.writeFlagThenResult x flag result).getV x = result := by
  simp [State.writeFlagThenResult]

/-- The flag survives in VF unless VF is the destination (R24). -/
theorem State.writeFlagThenResult_getV_vf (s : State) {x : Reg} (flag result : Byte) (h : x ≠ vf) :
    (s.writeFlagThenResult x flag result).getV vf = flag := by
  simp [State.writeFlagThenResult, State.getV_setV, Ne.symm h]

theorem State.writeFlagThenResult_getV_ne (s : State) {x r : Reg} (flag result : Byte) (hx : r ≠ x) (hf : r ≠ vf) :
    (s.writeFlagThenResult x flag result).getV r = s.getV r := by
  simp [State.writeFlagThenResult, State.getV_setV, hx, hf]

/-- A read of a register depends on the registers alone. -/
theorem State.getV_congr {s t : State} (h : t.v = s.v) (r : Reg) : t.getV r = s.getV r := by
  simp [State.getV, h]

/-- A read of memory depends on the memory alone. -/
theorem State.readByte_congr {s t : State} (h : t.mem = s.mem) (hf : t.font = s.font) (a : Nat) : t.readByte a = s.readByte a := by
  simp [State.readByte, h, hf]

end Sys2Proof.Machine
end

