-- ==== Sys2Proof/Laws/Ops.lean ====
section
/-! SUPPORT. What the shared operations can do: the fetch, the call stack, the display cells. -/

namespace Sys2Proof.Machine

/-! ### Fetch (spec/30_encoding.md R91) -/

/-- A fetch answers a word exactly when both its bytes are in memory. -/
theorem State.fetchWord_eq_some {s : State} {hi lo : Byte} (h1 : s.readByte s.pc.toNat = some hi)
    (h2 : s.readByte (s.pc.toNat + 1) = some lo) : s.fetchWord = some (wordOfBytes hi lo) := by
  simp [State.fetchWord, h1, h2]

/-- A fetch at `pc` up to 0xFFE answers the word of the two bytes there. -/
theorem State.fetchWord_in_memory {s : State} (h : s.pc.toNat ≤ 0x0FFE) :
    ∃ hi lo, s.readByte s.pc.toNat = some hi ∧ s.readByte (s.pc.toNat + 1) = some lo ∧
      s.fetchWord = some (wordOfBytes hi lo) := by
  refine ⟨s.mem.lookup s.font s.pc.toNat, s.mem.lookup s.font (s.pc.toNat + 1), ?_, ?_, ?_⟩
  · exact Memory.read_of_lt _ (by show s.pc.toNat < 0x1000; omega)
  · exact Memory.read_of_lt _ (by show s.pc.toNat + 1 < 0x1000; omega)
  · exact State.fetchWord_eq_some (Memory.read_of_lt _ (by show s.pc.toNat < 0x1000; omega))
      (Memory.read_of_lt _ (by show s.pc.toNat + 1 < 0x1000; omega))

/-- A fetch at `pc` above 0xFFE answers nothing (R183). -/
theorem State.fetchWord_out_of_memory {s : State} (h : 0x0FFE < s.pc.toNat) : s.fetchWord = none := by
  have : s.readByte (s.pc.toNat + 1) = none := Memory.read_of_ge _ (by show 0x1000 ≤ s.pc.toNat + 1; omega)
  unfold State.fetchWord
  rw [this]
  split
  · next h => exact absurd h (by simp)
  · rfl

theorem State.fetchWord_eq_none_iff (s : State) : s.fetchWord = none ↔ 0x0FFE < s.pc.toNat := by
  constructor
  · intro h
    by_contra hle
    obtain ⟨hi, lo, -, -, e⟩ := State.fetchWord_in_memory (s := s) (by omega)
    simp [e] at h
  · exact State.fetchWord_out_of_memory

/-- The word placed at `pc` is the word fetched there (R67). -/
theorem State.fetchWord_withFetchWord {s : State} (hm : s.MemWf) (hpc : s.pc.toNat ≤ 0x0FFE) (w : Word) :
    State.fetchWord { s with mem := s.mem.writeWord s.font s.pc.toNat w } = some w := by
  have e := State.fetchWord_eq_some (s := { s with mem := s.mem.writeWord s.font s.pc.toNat w })
    (hi := highByte w) (lo := lowByte w) ?_ ?_
  · rw [e, wordOfBytes_bytes]
  · show (s.mem.writeWord s.font s.pc.toNat w).read s.font s.pc.toNat = _
    rw [Memory.writeWord, Memory.read_write (Memory.write_wf hm _ _) (by show s.pc.toNat + 1 < 0x1000; omega),
      if_neg (by omega), Memory.read_write hm (by show s.pc.toNat < 0x1000; omega), if_pos rfl]
  · show (s.mem.writeWord s.font s.pc.toNat w).read s.font (s.pc.toNat + 1) = _
    rw [Memory.writeWord, Memory.read_write (Memory.write_wf hm _ _) (by show s.pc.toNat + 1 < 0x1000; omega), if_pos rfl]

/-! ### The call stack (spec/10_state.md R32) -/

/-- A push below the full stack writes one slot and raises `sp` by 1. -/
theorem State.push_eq_some {s : State} (a : Word) (h : s.sp.val < 16) :
    s.push a = some { s with stack := s.stack.set s.sp.val a, sp := ⟨s.sp.val + 1, by omega⟩ } := by
  simp [State.push, h]

theorem State.push_eq_none {s : State} (a : Word) (h : ¬ s.sp.val < 16) : s.push a = none := by
  simp [State.push, h]

/-- A pop of a non-empty stack answers the top slot and lowers `sp` by 1. -/
theorem State.pop_eq_some {s : State} (h : 0 < s.sp.val) :
    s.pop = some (s.stack[s.sp.val - 1], { s with sp := ⟨s.sp.val - 1, by omega⟩ }) := by
  simp [State.pop, h]

theorem State.pop_eq_none {s : State} (h : ¬ 0 < s.sp.val) : s.pop = none := by
  simp [State.pop, h]

/-! ### The display (spec/10_state.md R33) -/

@[simp] theorem Display.cell_blank (k : Nat) : Display.blank.cell k = false := by
  simp [Display.cell, Display.blank]

/-- A cell of the display is a bit of its row (R61). -/
theorem Display.cell_cellIndex (d : Display) {x y : Nat} (hx : x < 64) (hy : y < 32) :
    d.cell (cellIndex x y) = d[y].getLsbD x := by
  have h1 : cellIndex x y / 64 = y := by unfold cellIndex; omega
  have h2 : cellIndex x y % 64 = x := by unfold cellIndex; omega
  simp only [Display.cell, h1, h2, hy, dif_pos]

/-- A toggle changes one cell. -/
theorem Display.cell_toggle (d : Display) {k : Nat} (hk : k < 2048) (k' : Nat) :
    (d.toggle k).cell k' = if k' = k then !d.cell k' else d.cell k' := by
  have hrow : k / 64 < 32 := by omega
  unfold Display.toggle Display.cell
  rw [dif_pos hrow]
  by_cases hrow' : k' / 64 < 32
  · simp only [dif_pos hrow']
    rw [Vector.getElem_set]
    by_cases e : k' = k
    · subst e
      simp [Nat.mod_lt]
    · rw [if_neg e]
      split
      · next er =>
        have ec : k % 64 ≠ k' % 64 := by omega
        rw [BitVec.getLsbD_xor, BitVec.getLsbD_twoPow]
        simp only [er]
        simp [ec]
      · rfl
  · have e : k' ≠ k := by omega
    simp [hrow', e]

theorem cellIndex_lt {x y : Nat} (hx : x < 64) (hy : y < 32) : cellIndex x y < 2048 := by
  unfold cellIndex
  omega

/-- Two cells of the display with one index are the same cell (R61). -/
theorem cellIndex_inj {x y x' y' : Nat} (hx : x < 64) (hx' : x' < 64) :
    cellIndex x y = cellIndex x' y' ↔ x = x' ∧ y = y' := by
  unfold cellIndex
  omega

/-- Two displays with the same cells are equal. -/
theorem Display.ext_cell {d e : Display} (h : ∀ x y, x < 64 → y < 32 → d.cell (cellIndex x y) = e.cell (cellIndex x y)) :
    d = e := by
  apply Vector.ext
  intro y hy
  apply BitVec.eq_of_getLsbD_eq
  intro x hx
  rw [← Display.cell_cellIndex d hx hy, ← Display.cell_cellIndex e hx hy]
  exact h x y hx hy

end Sys2Proof.Machine
end

