-- ==== Sys2Proof/Laws/Draw.lean ====
section
/-! SUPPORT. What the loops of DRW do, cell by cell (spec/44_draw.md R170 to R174). -/

namespace Sys2Proof.Machine

/-- A set pixel off the display changes nothing (R173). -/
theorem plot_clipped {px py : Nat} (h : ¬ (px ≤ 63 ∧ py ≤ 31)) (cv : Canvas) : plot px py cv = cv := by
  simp [plot, h]

theorem plot_collision (px py : Nat) (cv : Canvas) :
    (plot px py cv).collision =
      (cv.collision || (decide (px ≤ 63 ∧ py ≤ 31) && cv.display.cell (cellIndex px py))) := by
  unfold plot
  split <;> simp_all

/-- A set pixel toggles the cell under it and no other (R174). -/
theorem plot_cell (px py : Nat) (cv : Canvas) {x y : Nat} (hx : x < 64) (hy : y < 32) :
    (plot px py cv).display.cell (cellIndex x y) =
      (cv.display.cell (cellIndex x y) ^^ decide (x = px ∧ y = py)) := by
  unfold plot
  split
  · next h =>
    rw [Display.cell_toggle _ (cellIndex_lt (by omega) (by omega))]
    simp only [cellIndex_inj hx (show px < 64 by omega)]
    by_cases e : x = px ∧ y = py <;> simp [e]
  · next h =>
    have : ¬ (x = px ∧ y = py) := by omega
    simp [this]

/-- The columns from `c` on: each cell of the row is toggled when its pixel is set. -/
theorem drawColumns_cell (sprite : Byte) (x0 py left : Nat) : ∀ (c : Nat) (cv : Canvas) {x y : Nat}, x < 64 → y < 32 →
    (drawColumns sprite x0 py left c cv).display.cell (cellIndex x y) =
      (cv.display.cell (cellIndex x y) ^^
        decide (y = py ∧ x0 + c ≤ x ∧ x < x0 + c + left ∧ sprite.getLsbD (7 - (x - x0)) = true)) := by
  induction left with
  | zero =>
    intro c cv x y _ _
    have : ¬ (y = py ∧ x0 + c ≤ x ∧ x < x0 + c + 0 ∧ sprite.getLsbD (7 - (x - x0)) = true) := by omega
    rw [drawColumns, decide_eq_false this, Bool.xor_false]
  | succ left ih =>
    intro c cv x y hx hy
    rw [drawColumns, ih (c + 1) _ hx hy]
    have step : (if sprite.getLsbD (7 - c) then plot (x0 + c) py cv else cv).display.cell (cellIndex x y) =
        (cv.display.cell (cellIndex x y) ^^ decide (y = py ∧ x = x0 + c ∧ sprite.getLsbD (7 - (x - x0)) = true)) := by
      split
      · next hb =>
        rw [plot_cell _ _ _ hx hy]
        congr 1
        rw [decide_eq_decide]
        constructor
        · rintro ⟨rfl, rfl⟩; exact ⟨rfl, rfl, by rwa [Nat.add_sub_cancel_left]⟩
        · rintro ⟨rfl, rfl, -⟩; exact ⟨rfl, rfl⟩
      · next hb =>
        have : ¬ (y = py ∧ x = x0 + c ∧ sprite.getLsbD (7 - (x - x0)) = true) := by
          rintro ⟨-, rfl, h⟩; rw [Nat.add_sub_cancel_left] at h; exact hb h
        simp [this]
    rw [step, Bool.xor_assoc]
    congr 1
    by_cases hy' : y = py <;> by_cases hb : sprite.getLsbD (7 - (x - x0)) = true
    · by_cases h1 : x = x0 + c
      · have h2 : ¬ (x0 + (c + 1) ≤ x) := by omega
        have h3 : x0 + c ≤ x ∧ x < x0 + c + (left + 1) := by omega
        simp [hy', h1]
      · have e : (x0 + (c + 1) ≤ x ∧ x < x0 + (c + 1) + left) ↔ (x0 + c ≤ x ∧ x < x0 + c + (left + 1)) := by omega
        simp [hy', hb, h1, e, ← and_assoc]
    all_goals simp [hy', hb]

/-- The collision flag after the columns from `c` on: set before, or a set pixel met a set cell (R174). -/
theorem drawColumns_collision (sprite : Byte) (x0 py left : Nat) : ∀ (c : Nat) (cv : Canvas),
    ((drawColumns sprite x0 py left c cv).collision = true ↔
      cv.collision = true ∨ ∃ c', c ≤ c' ∧ c' < c + left ∧ sprite.getLsbD (7 - c') = true ∧ x0 + c' < 64 ∧ py < 32 ∧
        cv.display.cell (cellIndex (x0 + c') py) = true) := by
  induction left with
  | zero =>
    intro c cv
    simp only [drawColumns]
    constructor
    · exact .inl
    · rintro (h | ⟨c', h1, h2, -⟩)
      · exact h
      · omega
  | succ left ih =>
    intro c cv
    rw [drawColumns, ih]
    have other : ∀ c', c + 1 ≤ c' → x0 + c' < 64 → py < 32 →
        (if sprite.getLsbD (7 - c) then plot (x0 + c) py cv else cv).display.cell (cellIndex (x0 + c') py) =
          cv.display.cell (cellIndex (x0 + c') py) := by
      intro c' hc hx hy
      split
      · rw [plot_cell _ _ _ hx hy]
        have : ¬ (x0 + c' = x0 + c ∧ py = py) := by omega
        rw [decide_eq_false this, Bool.xor_false]
      · rfl
    have here : ((if sprite.getLsbD (7 - c) then plot (x0 + c) py cv else cv).collision = true ↔
        cv.collision = true ∨ (sprite.getLsbD (7 - c) = true ∧ x0 + c < 64 ∧ py < 32 ∧
          cv.display.cell (cellIndex (x0 + c) py) = true)) := by
      split
      · next hb =>
        rw [plot_collision]
        simp only [Bool.or_eq_true, Bool.and_eq_true, decide_eq_true_eq, hb, true_and]
        have : (x0 + c ≤ 63 ∧ py ≤ 31) ↔ (x0 + c < 64 ∧ py < 32) := by omega
        rw [this, and_assoc]
      · next hb => simp [hb]
    rw [here]
    constructor
    · rintro ((h | h) | ⟨c', h1, h2, hb, hx, hy, hc⟩)
      · exact .inl h
      · exact .inr ⟨c, by omega, by omega, h⟩
      · exact .inr ⟨c', by omega, by omega, hb, hx, hy, by rwa [other c' h1 hx hy] at hc⟩
    · rintro (h | ⟨c', h1, h2, hb, hx, hy, hc⟩)
      · exact .inl (.inl h)
      · by_cases e : c' = c
        · subst e; exact .inl (.inr ⟨hb, hx, hy, hc⟩)
        · exact .inr ⟨c', by omega, by omega, hb, hx, hy, by rw [other c' (by omega) hx hy]; exact hc⟩

/-! ### Whole rows -/

theorem drawRow_cell (sprite : Byte) (x0 py : Nat) (cv : Canvas) {x y : Nat} (hx : x < 64) (hy : y < 32) :
    (drawRow sprite x0 py cv).display.cell (cellIndex x y) =
      (cv.display.cell (cellIndex x y) ^^
        decide (y = py ∧ x0 ≤ x ∧ x < x0 + 8 ∧ sprite.getLsbD (7 - (x - x0)) = true)) :=
  drawColumns_cell sprite x0 py 8 0 cv hx hy

theorem drawRow_collision (sprite : Byte) (x0 py : Nat) (cv : Canvas) :
    ((drawRow sprite x0 py cv).collision = true ↔
      cv.collision = true ∨ ∃ c, c < 8 ∧ sprite.getLsbD (7 - c) = true ∧ x0 + c < 64 ∧ py < 32 ∧
        cv.display.cell (cellIndex (x0 + c) py) = true) := by
  rw [drawRow, drawColumns_collision]
  simp only [Nat.zero_le, true_and, Nat.zero_add]

/-- The rows succeed exactly when each of them is in memory (R172). -/
theorem drawRows_ok (s : State) (x0 y0 left : Nat) : ∀ (r : Nat) (cv : Canvas),
    (left = 0 ∨ s.i.toNat + r + left ≤ 0x1000) → ∃ cv', drawRows s x0 y0 left r cv = .ok cv' := by
  induction left with
  | zero => exact fun r cv _ => ⟨cv, rfl⟩
  | succ left ih =>
    intro r cv h
    have hr : s.readByte (s.rowAddr r) = some (s.mem.lookup s.font (s.rowAddr r)) :=
      Memory.read_of_lt _ (by show s.i.toNat + r < 0x1000; omega)
    rw [drawRows, hr]
    exact ih (r + 1) _ (by omega)

/-- Otherwise they fault at the first row above 0xFFF (R66). -/
theorem drawRows_error (s : State) (x0 y0 left : Nat) : ∀ (r : Nat) (cv : Canvas),
    left ≠ 0 → 0x1000 < s.i.toNat + r + left →
    drawRows s x0 y0 left r cv = .error (.dataOutOfBounds (max (s.i.toNat + r) 0x1000)) := by
  induction left with
  | zero => exact fun r cv h => absurd rfl h
  | succ left ih =>
    intro r cv _ h
    by_cases hin : s.i.toNat + r < 0x1000
    · have hr : s.readByte (s.rowAddr r) = some (s.mem.lookup s.font (s.rowAddr r)) := Memory.read_of_lt _ hin
      rw [drawRows, hr]
      have := ih (r + 1) (drawRow (s.mem.lookup s.font (s.rowAddr r)) x0 (y0 + r) cv) (by omega) (by omega)
      rw [show max (s.i.toNat + r) 0x1000 = max (s.i.toNat + (r + 1)) 0x1000 by omega]
      exact this
    · have hr : s.readByte (s.rowAddr r) = none :=
        Memory.read_of_ge _ (by show 0x1000 ≤ s.i.toNat + r; omega)
      rw [drawRows, hr, show max (s.i.toNat + r) 0x1000 = s.i.toNat + r by omega]
      rfl

/-- A row of a sprite that the rows draw, as the byte read for it. -/
theorem drawRows_succ_ok {s : State} {x0 y0 left r : Nat} {cv cv' : Canvas}
    (h : drawRows s x0 y0 (left + 1) r cv = .ok cv') :
    ∃ b, s.readByte (s.i.toNat + r) = some b ∧ drawRows s x0 y0 left (r + 1) (drawRow b x0 (y0 + r) cv) = .ok cv' := by
  rw [drawRows] at h
  split at h
  · next b hb => exact ⟨b, hb, h⟩
  · exact absurd h (by simp)

/-- The rows depend on `I` and the memory alone. -/
theorem drawRows_congr {s t : State} (hm : t.mem = s.mem) (hf : t.font = s.font) (hi : t.i = s.i) (x0 y0 left : Nat) : ∀ (r : Nat) (cv : Canvas),
    drawRows t x0 y0 left r cv = drawRows s x0 y0 left r cv := by
  induction left with
  | zero => exact fun _ _ => rfl
  | succ left ih =>
    intro r cv
    have ha : t.rowAddr r = s.rowAddr r := by rw [State.rowAddr, State.rowAddr, hi]
    rw [drawRows, drawRows, ha, State.readByte_congr hm hf]
    split
    · exact ih _ _
    · rfl

/-- Some set pixel of the rows `r` to `r + left - 1`, drawn from `(x0, y0)`, falls on `(px, py)`, on the display or off it. -/
def State.CoversRows (s : State) (x0 y0 left r px py : Nat) : Prop :=
  ∃ r' c, r ≤ r' ∧ r' < r + left ∧ c < 8 ∧ px = x0 + c ∧ py = y0 + r' ∧ s.spriteBit r' c = true

theorem State.spriteBit_of_read {s : State} {r c : Nat} {b : Byte} (h : s.readByte (s.i.toNat + r) = some b) :
    s.spriteBit r c = b.getLsbD (7 - c) := by
  simp [State.spriteBit, h]

/-- The cells a sprite of height `n` covers are those of its rows that are on the display. -/
theorem State.covers_iff_rows (s : State) (x0 y0 : Nat) (n : Height) (px py : Nat) :
    s.Covers x0 y0 n px py ↔ px < 64 ∧ py < 32 ∧ s.CoversRows x0 y0 n.toNat 0 px py := by
  unfold State.Covers State.CoversRows
  constructor
  · rintro ⟨h1, h2, r, c, h⟩; exact ⟨h1, h2, r, c, by omega, by omega, h.2⟩
  · rintro ⟨h1, h2, r, c, h⟩; exact ⟨h1, h2, r, c, by omega, h.2.2⟩

/-- The first of the rows covers the cells of its own set pixels. -/
theorem State.coversRows_first {s : State} {x0 y0 left r px : Nat} {b : Byte}
    (hb : s.readByte (s.i.toNat + r) = some b) :
    s.CoversRows x0 y0 (left + 1) r px (y0 + r) ↔ x0 ≤ px ∧ px < x0 + 8 ∧ b.getLsbD (7 - (px - x0)) = true := by
  constructor
  · rintro ⟨r', c, h1, h2, h3, h4, h5, h6⟩
    have e : r' = r := by omega
    subst e h4
    rw [State.spriteBit_of_read hb] at h6
    exact ⟨by omega, by omega, by rwa [Nat.add_sub_cancel_left]⟩
  · rintro ⟨h1, h2, h3⟩
    exact ⟨r, px - x0, by omega, by omega, by omega, by omega, rfl, by rw [State.spriteBit_of_read hb]; exact h3⟩

/-- Off the first row's line, the rows cover what the others do. -/
theorem State.coversRows_rest {s : State} {x0 y0 left r px py : Nat} (h : py ≠ y0 + r) :
    s.CoversRows x0 y0 (left + 1) r px py ↔ s.CoversRows x0 y0 left (r + 1) px py := by
  constructor
  · rintro ⟨r', c, h1, h2, h3⟩
    have : r' ≠ r := fun e => h (e ▸ h3.2.2.1)
    exact ⟨r', c, by omega, by omega, h3⟩
  · rintro ⟨r', c, h1, h2, h3⟩
    exact ⟨r', c, by omega, by omega, h3⟩

/-- The rows toggle exactly the cells they cover (R170). -/
theorem drawRows_cell (s : State) (x0 y0 left : Nat) : ∀ (r : Nat) (cv cv' : Canvas), drawRows s x0 y0 left r cv = .ok cv' →
  ∀ x y, x < 64 → y < 32 → (cv'.display.cell (cellIndex x y) = true ↔ (cv.display.cell (cellIndex x y) = true ↔ ¬ s.CoversRows x0 y0 left r x y)) := by
  induction left with
  | zero =>
    intro r cv cv' h x y hx hy
    have : cv = cv' := by simpa [drawRows] using h
    subst this
    have : ¬ s.CoversRows x0 y0 0 r x y := by rintro ⟨r', c, h1, h2, -⟩; omega
    simp [this]
  | succ left ih =>
    intro r cv cv' h x y hx hy
    obtain ⟨b, hb, h⟩ := drawRows_succ_ok h
    rw [ih _ _ _ h x y hx hy, drawRow_cell _ _ _ _ hx hy]
    by_cases e : y = y0 + r
    · have n1 : ¬ s.CoversRows x0 y0 left (r+1) x y := by rintro ⟨r', c, h1, h2, h3, h4, h5, h6⟩; omega
      have n2 : s.CoversRows x0 y0 (left+1) r x y ↔ (y = y0 + r ∧ x0 ≤ x ∧ x < x0 + 8 ∧ b.getLsbD (7 - (x - x0)) = true) := by
        constructor
        · rintro ⟨r', c, h1, h2, h3, h4, h5, h6⟩
          have : r' = r := by omega
          subst this
          rw [State.spriteBit_of_read hb] at h6
          subst h4
          exact ⟨e, by omega, by omega, by rw [Nat.add_sub_cancel_left]; exact h6⟩
        · rintro ⟨-, h1, h2, h3⟩
          exact ⟨r, x - x0, by omega, by omega, by omega, by omega, e, by rw [State.spriteBit_of_read hb]; exact h3⟩
      rw [n2]
      by_cases q : (y = y0 + r ∧ x0 ≤ x ∧ x < x0 + 8 ∧ b.getLsbD (7 - (x - x0)) = true)
      · rw [decide_eq_true q, Bool.xor_true]; simp only [n1, not_false_eq_true, iff_true]; simp [q]
      · rw [decide_eq_false q]; simp only [n1, q]; simp
    · have n2 : s.CoversRows x0 y0 (left+1) r x y ↔ s.CoversRows x0 y0 left (r+1) x y := by
        constructor
        · rintro ⟨r', c, h1, h2, h3, h4, h5, h6⟩; exact ⟨r', c, by omega, by omega, h3, h4, h5, h6⟩
        · rintro ⟨r', c, h1, h2, h3, h4, h5, h6⟩; exact ⟨r', c, by omega, by omega, h3, h4, h5, h6⟩
      rw [n2, decide_eq_false (by simp [e]), Bool.xor_false]

/-- The collision flag after the rows: set before, or a covered cell was set (R174). -/
theorem drawRows_collision (s : State) (x0 y0 left : Nat) : ∀ (r : Nat) (cv cv' : Canvas), drawRows s x0 y0 left r cv = .ok cv' →
  (cv'.collision = true ↔ (cv.collision = true ∨ ∃ x y, x < 64 ∧ y < 32 ∧ s.CoversRows x0 y0 left r x y ∧ cv.display.cell (cellIndex x y) = true)) := by
  induction left with
  | zero =>
    intro r cv cv' h
    have : cv = cv' := by simpa [drawRows] using h
    subst this
    constructor
    · exact .inl
    · rintro (h | ⟨x, y, hx, hy, ⟨r', c, h1, h2, -⟩, -⟩)
      · exact h
      · omega
  | succ left ih =>
    intro r cv cv' h
    obtain ⟨b, hb, h⟩ := drawRows_succ_ok h
    rw [ih _ _ _ h, drawRow_collision]
    constructor
    · rintro ((h | ⟨c, h1, h2, h3, h4, h5⟩) | ⟨x, y, hx, hy, ⟨r', c, h1, h2, h3, h4, h5, h6⟩, h7⟩)
      · exact .inl h
      · exact .inr ⟨x0 + c, y0 + r, h3, h4, ⟨r, c, by omega, by omega, h1, rfl, rfl, by rw [State.spriteBit_of_read hb]; exact h2⟩, h5⟩
      · refine .inr ⟨x, y, hx, hy, ⟨r', c, by omega, by omega, h3, h4, h5, h6⟩, ?_⟩
        rw [drawRow_cell _ _ _ _ hx hy, decide_eq_false (by omega), Bool.xor_false] at h7; exact h7
    · rintro (h | ⟨x, y, hx, hy, ⟨r', c, h1, h2, h3, h4, h5, h6⟩, h7⟩)
      · exact .inl (.inl h)
      · by_cases e : r' = r
        · subst e; subst h4; subst h5; rw [State.spriteBit_of_read hb] at h6; exact .inl (.inr ⟨c, h3, h6, hx, hy, h7⟩)
        · refine .inr ⟨x, y, hx, hy, ⟨r', c, by omega, by omega, h3, h4, h5, h6⟩, ?_⟩
          rw [drawRow_cell _ _ _ _ hx hy, decide_eq_false (by omega), Bool.xor_false]; exact h7

end Sys2Proof.Machine
end

