-- ==== Sys2Proof/Laws/PerInstr.lean ====
section
/-! SUPPORT. The family RowMatch: the word of every instruction matches its own row of the opcode map, and the row is in the
map (spec/30_encoding.md R96). One lemma per instruction. -/

namespace Sys2Proof.Laws.RowMatch

/-- The instruction's word has its row's fixed bits, and its row is one of the 18. -/
def Statement (i : Instr) : Prop :=
  encode i &&& encodingMask i = encodingMatch i ∧ (encodingMask i, encodingMatch i) ∈ opcodeMap

theorem formatA_getLsbD (op : BitVec 4) (nnn : AddrField) (i : Nat) :
    (formatA op nnn).getLsbD i = if i < 12 then nnn.getLsbD i else op.getLsbD (i - 12) :=
  BitVec.getLsbD_append

/-- A word under the mask 0xF000 is its OP followed by zeros. -/
theorem mask_op (w : Word) : w &&& 0xF000#16 = formatA (fieldOP w) 0 := by
  apply BitVec.eq_of_getLsbD_eq
  intro i hi
  rw [BitVec.getLsbD_and, formatA_getLsbD]
  interval_cases i <;> simp [fieldOP]

/-- A word under the mask 0xF00F is its OP and N with zeros between. -/
theorem mask_op_n (w : Word) : w &&& 0xF00F#16 = formatR (fieldOP w) 0 0 (fieldN w) := by
  have h : formatR (fieldOP w) 0 0 (fieldN w) = formatA (fieldOP w) (0#8 ++ fieldN w) := by
    apply BitVec.eq_of_toNat_eq
    rw [formatR_toNat, formatA_toNat, append_toNat]
    simp
  rw [h]
  apply BitVec.eq_of_getLsbD_eq
  intro i hi
  rw [BitVec.getLsbD_and, formatA_getLsbD, BitVec.getLsbD_append (x := 0#8) (y := fieldN w)]
  interval_cases i <;> simp [fieldOP, fieldN]

/-- The row of a word whose mask is 0xF000. -/
theorem of_op {i : Instr} {op : BitVec 4} (hw : fieldOP (encode i) = op) (hm : encodingMask i = 0xF000#16)
    (hp : encodingMatch i = formatA op 0) (hmem : (0xF000#16, formatA op 0) ∈ opcodeMap) : Statement i := by
  refine ⟨?_, ?_⟩
  · rw [hm, hp, mask_op, hw]
  · rw [hm, hp]; exact hmem

/-- The row of a word of the 0x8 family. -/
theorem of_op_n {i : Instr} {n : BitVec 4} (hw : fieldOP (encode i) = 0x8#4) (hn : fieldN (encode i) = n)
    (hm : encodingMask i = 0xF00F#16) (hp : encodingMatch i = formatR 0x8#4 0 0 n)
    (hmem : (0xF00F#16, formatR 0x8#4 0 0 n) ∈ opcodeMap) : Statement i := by
  refine ⟨?_, ?_⟩
  · rw [hm, hp, mask_op_n, hw, hn]
  · rw [hm, hp]; exact hmem

theorem cls : Statement .cls := by unfold Statement; decide

theorem ret : Statement .ret := by unfold Statement; decide

theorem jp (nnn : AddrField) : Statement (.jp nnn) :=
  of_op (op := 0x1#4) (fieldOP_formatA ..) rfl rfl (by decide)

theorem call (nnn : AddrField) : Statement (.call nnn) :=
  of_op (op := 0x2#4) (fieldOP_formatA ..) rfl rfl (by decide)

theorem ldByte (x : Reg) (nn : Byte) : Statement (.ldByte x nn) :=
  of_op (op := 0x6#4) (fieldOP_formatI ..) rfl rfl (by decide)

theorem addByte (x : Reg) (nn : Byte) : Statement (.addByte x nn) :=
  of_op (op := 0x7#4) (fieldOP_formatI ..) rfl rfl (by decide)

theorem ldReg (x y : Reg) : Statement (.ldReg x y) :=
  of_op_n (n := 0x0#4) (fieldOP_formatR ..) (fieldN_formatR ..) rfl rfl (by decide)

theorem orReg (x y : Reg) : Statement (.orReg x y) :=
  of_op_n (n := 0x1#4) (fieldOP_formatR ..) (fieldN_formatR ..) rfl rfl (by decide)

theorem andReg (x y : Reg) : Statement (.andReg x y) :=
  of_op_n (n := 0x2#4) (fieldOP_formatR ..) (fieldN_formatR ..) rfl rfl (by decide)

theorem xorReg (x y : Reg) : Statement (.xorReg x y) :=
  of_op_n (n := 0x3#4) (fieldOP_formatR ..) (fieldN_formatR ..) rfl rfl (by decide)

theorem addReg (x y : Reg) : Statement (.addReg x y) :=
  of_op_n (n := 0x4#4) (fieldOP_formatR ..) (fieldN_formatR ..) rfl rfl (by decide)

theorem sub (x y : Reg) : Statement (.sub x y) :=
  of_op_n (n := 0x5#4) (fieldOP_formatR ..) (fieldN_formatR ..) rfl rfl (by decide)

theorem shr (x y : Reg) : Statement (.shr x y) :=
  of_op_n (n := 0x6#4) (fieldOP_formatR ..) (fieldN_formatR ..) rfl rfl (by decide)

theorem subn (x y : Reg) : Statement (.subn x y) :=
  of_op_n (n := 0x7#4) (fieldOP_formatR ..) (fieldN_formatR ..) rfl rfl (by decide)

theorem shl (x y : Reg) : Statement (.shl x y) :=
  of_op_n (n := 0xE#4) (fieldOP_formatR ..) (fieldN_formatR ..) rfl rfl (by decide)

theorem ldI (nnn : AddrField) : Statement (.ldI nnn) :=
  of_op (op := 0xA#4) (fieldOP_formatA ..) rfl rfl (by decide)

theorem rnd (x : Reg) (nn : Byte) : Statement (.rnd x nn) :=
  of_op (op := 0xC#4) (fieldOP_formatI ..) rfl rfl (by decide)

theorem drw (x y : Reg) (n : Height) : Statement (.drw x y n) :=
  of_op (op := 0xD#4) (fieldOP_formatR ..) rfl rfl (by decide)

end Sys2Proof.Laws.RowMatch
end

