-- ==== Sys2Proof/Tests/Slice0.lean ====
section
/-! SUPPORT. Tests: words written out from the spec's encodings, smoke tests of the checks, single steps from
spec/95_test_vectors.md, and a witness for every statement that has hypotheses. Expected results are the spec's. -/

namespace Sys2Proof.Tests

open Sys2Proof Sys2Proof.Machine

/-- The next state of an outcome, if it is one. -/
def nextOf : Host.Outcome State Fault Refusal → Option State
  | .next t => some t
  | .fault _ => none
  | .refused _ => none

/-- The fault of an outcome, if it is one. -/
def faultOf : Host.Outcome State Fault Refusal → Option Fault
  | .next _ => none
  | .fault f => some f
  | .refused _ => none

/-- One step from `s` with the word `w` placed at `pc`. -/
def stepWord (s : State) (w : Nat) : Option State := nextOf (step (s.withFetchWord 16 w))

/-- The reset state with some registers set. -/
def withRegs (l : List (Reg × Byte)) : State := l.foldl (fun s p => s.setV p.1 p.2) State.reset

/-- A state with `I` = 0x300 and sprite bytes from 0x300 up. -/
def withSprite (s : State) (bytes : List Byte) : State :=
  { s with i := 0x300, mem := s.mem.writeBytes s.font 0x300 bytes }

/-! ### Decoding: each word is written bit by bit from the `encoding` column of R96 -/

theorem test_decode_cls : decodeWord 0b0000_0000_1110_0000#16 = some .cls := by decide

theorem test_decode_ret : decodeWord 0b0000_0000_1110_1110#16 = some .ret := by decide

theorem test_decode_jp : decodeWord 0b0001_0010_0011_0100#16 = some (.jp 0x234) := by decide

theorem test_decode_call : decodeWord 0b0010_1010_1011_1100#16 = some (.call 0xABC) := by decide

theorem test_decode_ldByte : decodeWord 0b0110_1010_0010_1100#16 = some (.ldByte 0xA 0x2C) := by decide

theorem test_decode_addByte : decodeWord 0b0111_0011_0010_0000#16 = some (.addByte 3 0x20) := by decide

theorem test_decode_ldReg : decodeWord 0b1000_0001_0010_0000#16 = some (.ldReg 1 2) := by decide

theorem test_decode_orReg : decodeWord 0b1000_0001_0010_0001#16 = some (.orReg 1 2) := by decide

theorem test_decode_andReg : decodeWord 0b1000_0001_0010_0010#16 = some (.andReg 1 2) := by decide

theorem test_decode_xorReg : decodeWord 0b1000_0001_0010_0011#16 = some (.xorReg 1 2) := by decide

theorem test_decode_addReg : decodeWord 0b1000_0001_0010_0100#16 = some (.addReg 1 2) := by decide

theorem test_decode_sub : decodeWord 0b1000_0001_0010_0101#16 = some (.sub 1 2) := by decide

theorem test_decode_shr : decodeWord 0b1000_0001_1111_0110#16 = some (.shr 1 0xF) := by decide

theorem test_decode_subn : decodeWord 0b1000_0001_0010_0111#16 = some (.subn 1 2) := by decide

theorem test_decode_shl : decodeWord 0b1000_0001_0010_1110#16 = some (.shl 1 2) := by decide

theorem test_decode_ldI : decodeWord 0b1010_0010_0000_1110#16 = some (.ldI 0x20E) := by decide

theorem test_decode_rnd : decodeWord 0b1100_0001_0000_1111#16 = some (.rnd 1 0x0F) := by decide

theorem test_decode_drw : decodeWord 0b1101_0101_1010_0111#16 = some (.drw 5 0xA 7) := by decide

/-- Vectors X1 to X16: unknown words beside accepted ones. -/
theorem test_decode_unknown :
    [0x0000, 0x00E1, 0x00EF, 0x01E0, 0x0300, 0x3012, 0x4012, 0x5120, 0x8008, 0x812D, 0x812F, 0x9120, 0xB200, 0xE19E,
      0xF007, 0xF065, 0xFFFF].all (fun w : Word => decodeWord w == none) = true := by decide

/-- The rows of the opcode map are disjoint: two different rows differ in a bit that both fix (R96). -/
theorem test_opcodeMap_disjoint :
    opcodeMap.Pairwise (fun r r' => r.2 &&& (r.1 &&& r'.1) ≠ r'.2 &&& (r.1 &&& r'.1)) := by decide

/-- Bytes are read big-endian, and what follows is left over; one byte is no instruction (R67, R102). -/
theorem test_decode_bytes : decode [0x12, 0x34, 0x56] = .ok (.jp 0x234, [0x56]) := by decide

theorem test_decode_truncated : decode [0x12] = .error (.truncated [0x12]) := by decide

theorem test_decode_bytes_unknown : decode [0xFF, 0xFF] = .error (.unknownOpcode 0xFFFF) := by decide

theorem test_decodeTableWord : decodeTableWord 16 0xD5A7 = some (.drw 5 0xA 7) := by decide

/-! ### Smoke tests of the checks, each with a term the check refuses -/

theorem test_program_too_large : programFits (List.replicate 3585 0) = false := by
  unfold programFits; rw [List.length_replicate]; rfl

theorem test_program_largest : programFits (List.replicate 3584 0) = true := by
  unfold programFits; rw [List.length_replicate]; rfl

theorem test_wf_unsorted : ¬ Memory.wf Config.defaultFont [(0x301, 1), (0x300, 1)] := by decide

theorem test_wf_repeated : ¬ Memory.wf Config.defaultFont [(0x300, 1), (0x300, 2)] := by decide

theorem test_wf_default_listed : ¬ Memory.wf Config.defaultFont [(0x300, 0)] := by decide

theorem test_wf_out_of_range : ¬ Memory.wf Config.defaultFont [(0x1000, 1)] := by decide

theorem test_wf_accepts : Memory.wf Config.defaultFont [(0x050, 0), (0x300, 1)] := by decide

/-! ### Memory and font -/

/-- S2: the font's first, second and last bytes, and the zeros beside it. -/
theorem test_font :
    [0x04F, 0x050, 0x051, 0x09F, 0x0A0].map State.reset.readByte = [some 0, some 0xF0, some 0x90, some 0x80, some 0] := by
  decide

/-- P6: glyph 2 at 0x05A. -/
theorem test_font_glyph_two :
    [0x05A, 0x05B, 0x05C, 0x05D, 0x05E].map State.reset.readByte =
      [some 0xF0, some 0x10, some 0xF0, some 0x80, some 0xF0] := by decide

/-- The default FONT is 80 bytes long and is stored as its table lists it (R221). -/
theorem test_font_length : (Config.fontLow ++ Config.fontHigh).length = 80 ∧
    Config.defaultFont.toList = Config.fontLow ++ Config.fontHigh := by decide

/-- FONT is a parameter: a machine with another one has other bytes at 0x050, and keeps it through the command reset (R10). -/
theorem test_font_parameter :
    (State.launch (Vector.replicate 80 0) 0 (Vector.replicate 16 false) false 10 5).resetFrom.readByte 0x050 = some 0 := by
  decide

/-- Writing back what an unlisted address reads as removes the entry. -/
theorem test_write_removes : Memory.write Config.defaultFont (Memory.write Config.defaultFont [] 0x300 7) 0x300 0 = [] := by decide

/-! ### One step of each instruction (spec/95_test_vectors.md) -/

/-- C1. -/
theorem test_cls : (stepWord { State.reset with display := Display.blank.toggle 0 } 0x00E0).map (fun t => (t.display, t.drawFlag, t.pc)) =
    some (Display.blank, true, 0x202) := by decide

/-- C3: the popped slot keeps its value. -/
theorem test_ret : (stepWord { State.reset with sp := 2, stack := (State.reset.stack.set 0 0x202).set 1 0x456 } 0x00EE).map
    (fun t => (t.sp, t.pc, t.stack[1])) = some (1, 0x456, 0x456) := by decide

/-- C4: RET on an empty stack. -/
theorem test_ret_empty : (stepWord State.reset 0x00EE).map (fun t => (t.sp, t.pc, t.report)) =
    some (0, 0x202, some .ok) := by decide

/-- C6: an odd target. -/
theorem test_jp : (stepWord State.reset 0x1ABD).map (fun t => t.pc) = some 0xABD := by decide

/-- C8: the sixteenth call. -/
theorem test_call : (stepWord { State.reset with sp := 15 } 0x2300).map (fun t => (t.stack[15], t.sp, t.pc)) =
    some (0x202, 16, 0x300) := by decide

/-- C9, S7c: a seventeenth call is dropped. -/
theorem test_call_full : (stepWord { State.reset with sp := 16 } 0x2300).map (fun t => (t.sp, t.pc)) =
    some (16, 0x202) := by decide

/-- I3: VF is loadable. -/
theorem test_ldByte : (stepWord State.reset 0x6FFF).map (fun t => t.getV vf) = some 0xFF := by decide

/-- I6: the sum wraps and VF is untouched. -/
theorem test_addByte : (stepWord (withRegs [(0, 0xFF), (vf, 1)]) 0x7001).map (fun t => (t.getV 0, t.getV vf)) =
    some (0, 1) := by decide

/-- A1. -/
theorem test_ldReg : (stepWord (withRegs [(1, 0x7E)]) 0x8010).map (fun t => (t.getV 0, t.getV 1)) =
    some (0x7E, 0x7E) := by decide

/-- A2: VF is neither set nor cleared. -/
theorem test_orReg : (stepWord (withRegs [(0, 0xF0), (1, 0x0F), (vf, 1)]) 0x8011).map (fun t => (t.getV 0, t.getV vf)) =
    some (0xFF, 1) := by decide

/-- A3. -/
theorem test_andReg : (stepWord (withRegs [(0, 0xF3), (1, 0x3C)]) 0x8012).map (fun t => t.getV 0) = some 0x30 := by decide

/-- A4. -/
theorem test_xorReg : (stepWord (withRegs [(0, 0xF3), (1, 0x3C)]) 0x8013).map (fun t => t.getV 0) = some 0xCF := by decide

/-- A9 (S3a): a sum of exactly 256. -/
theorem test_addReg_256 : (stepWord (withRegs [(0, 0xFF), (1, 1)]) 0x8014).map (fun t => (t.getV 0, t.getV vf)) =
    some (0, 1) := by decide

/-- A8: a sum of exactly 255 clears VF. -/
theorem test_addReg_255 : (stepWord (withRegs [(0, 0xFE), (1, 1), (vf, 1)]) 0x8014).map (fun t => (t.getV 0, t.getV vf)) =
    some (0xFF, 0) := by decide

/-- S4b: a borrow. -/
theorem test_sub : (stepWord (withRegs [(0, 3), (1, 5), (vf, 1)]) 0x8015).map (fun t => (t.getV 0, t.getV vf)) =
    some (0xFE, 0) := by decide

/-- A14: equal operands clear VF. -/
theorem test_sub_equal : (stepWord (withRegs [(0, 0x33), (1, 0x33), (vf, 1)]) 0x8015).map (fun t => (t.getV 0, t.getV vf)) =
    some (0, 0) := by decide

/-- A24: Y plays no part. -/
theorem test_shr : (stepWord (withRegs [(0, 0xB5), (1, 2)]) 0x8016).map (fun t => (t.getV 0, t.getV 1, t.getV vf)) =
    some (0x5A, 2, 1) := by decide

/-- A31: X = 15 keeps the result. -/
theorem test_shr_vf : (stepWord (withRegs [(vf, 5)]) 0x8F06).map (fun t => t.getV vf) = some 2 := by decide

/-- A18. -/
theorem test_subn : (stepWord (withRegs [(0, 0x10), (1, 0x20)]) 0x8017).map (fun t => (t.getV 0, t.getV vf)) =
    some (0x10, 1) := by decide

/-- A25. -/
theorem test_shl : (stepWord (withRegs [(0, 0xB5)]) 0x800E).map (fun t => (t.getV 0, t.getV vf)) =
    some (0x6A, 1) := by decide

/-- A33: Y = 15 reads the old VF. -/
theorem test_sub_vf_operand : (stepWord (withRegs [(0, 0x10), (vf, 4)]) 0x80F5).map (fun t => (t.getV 0, t.getV vf)) =
    some (0x0C, 1) := by decide

/-- N3. -/
theorem test_ldI : (stepWord State.reset 0xAFFF).map (fun t => t.i) = some 0xFFF := by decide

/-- N4: NN = 0 gives 0 whatever the random byte is. -/
theorem test_rnd_zero : (stepWord (withRegs [(0, 0x55)]) 0xC000).map (fun t => (t.getV 0, t.draws)) = some (0, 1) := by
  have h : stepWord (withRegs [(0, 0x55)]) 0xC000 =
      nextOf (exec (.rnd 0 0) ((withRegs [(0, 0x55)]).withFetchWord 16 0xC000).advance.reportOk) := rfl
  rw [h]
  simp [exec, execRnd, nextOf, State.draw8]
  decide

/-- S5: clipped at the right edge. -/
theorem test_drw_clip : (stepWord (withSprite (withRegs [(0, 0x3F)]) [0xFF]) 0xD011).map
    (fun t => (t.display, t.getV vf, t.drawFlag)) = some (Display.blank.set 0 0x8000000000000000, 0, true) := by decide

/-- D14: a collision in the first row is kept through the second. -/
theorem test_drw_sticky : (stepWord { withSprite State.reset [0xFF, 0xFF] with display := Display.blank.set 0 0xFF } 0xD012).map
    (fun t => (t.display, t.getV vf)) = some (Display.blank.set 1 0xFF, 1) := by decide

/-- D13: X = 15 takes the column from the old VF, which is then cleared. -/
theorem test_drw_vf : (stepWord (withSprite (withRegs [(vf, 0x0A), (1, 3)]) [0x80]) 0xDF11).map
    (fun t => (t.display, t.getV vf)) = some (Display.blank.set 3 0x400, 0) := by decide

/-- D8: a row beyond memory. -/
theorem test_drw_fault : faultOf (step ({ State.reset with i := 0xFFF }.withFetchWord 16 0xD012)) =
    some (.dataOutOfBounds 0x1000) := by decide

/-! ### The step, the unknown opcode, the fetch fault -/

/-- S9. -/
theorem test_unknown : (stepWord (withRegs [(3, 0x77)]) 0xFFFF).map (fun t => (t.pc, t.getV 3, t.report)) =
    some (0x202, 0x77, some (.unknownOpcode 0xFFFF)) := by decide

/-- From reset with nothing loaded, the word is 0x0000, an unknown opcode (R97). -/
theorem test_empty_memory : (nextOf (step State.reset)).map (fun t => (t.pc, t.report)) =
    some (0x202, some (.unknownOpcode 0)) := by decide

/-- F3: an odd `pc` is legal. -/
theorem test_odd_pc : (stepWord { State.reset with pc := 0x201 } 0x602A).map (fun t => (t.getV 0, t.pc)) =
    some (0x2A, 0x203) := by decide

/-- F4: the last word of memory. -/
theorem test_last_word : (stepWord { State.reset with pc := 0xFFE } 0x6001).map (fun t => (t.getV 0, t.pc)) =
    some (1, 0x1000) := by decide

/-- F6: the last byte is not read as half a word. -/
theorem test_fetch_fault : faultOf (step { State.reset with pc := 0xFFF }) = some (.fetchOutOfBounds 0xFFF) := by decide

/-! ### Commands -/

/-- T3. -/
theorem test_tick : (({ State.reset with dt := 255, st := 1 } : State).tickTimers.dt,
    ({ State.reset with dt := 255, st := 1 } : State).tickTimers.st) = (254, 0) := by decide

/-- T10: a shorter load leaves the tail of the longer one. -/
theorem test_load_over : [0x200, 0x201, 0x202, 0x203].map
    (((State.reset.loadProgram [1, 2, 3, 4]).2.loadProgram [9]).2.readByte) = [some 9, some 2, some 3, some 4] := by decide

/-! ### Witnesses: every statement with hypotheses has states and operands that meet them -/

/-- LaunchStatesSatisfyInvariants: a launch state, the reset state itself. -/
theorem witness_launch :
    State.reset = State.launch Config.defaultFont 0 (Vector.replicate 16 false) false 0 0 := rfl

/-- LoadProgramCopiesOrChangesNothing, first clause, at its largest program, and at the empty one. -/
theorem witness_load_fits :
    State.reset.MemWf ∧ (List.replicate 3584 (0 : Byte)).length ≤ 3584 ∧ ([] : List Byte).length ≤ 3584 :=
  ⟨Memory.reset_wf, by rw [List.length_replicate], by decide⟩

/-- LoadProgramCopiesOrChangesNothing, second clause, at its smallest program. -/
theorem witness_load_too_large : 3584 < (List.replicate 3585 (0 : Byte)).length := by rw [List.length_replicate]; decide

/-- FaultStopsUntilReset: a state whose step faults, and a run of commands without `reset`. -/
theorem witness_fault : step { State.reset with pc := 0x1000 } = .fault (.fetchOutOfBounds 0x1000) ∧
    Command.reset ∉ [Command.step, .tickTimers] := ⟨rfl, by decide⟩

/-- TicksCommuteWithSteps, first clause, with timers that move; the second clause's fault is `witness_fault`. -/
theorem witness_tick_step : (stepWord { State.reset with dt := 10, st := 5 } 0x00E0).isSome = true ∧
    faultOf (step { State.reset with pc := 0x1000, dt := 10 }) = some (.fetchOutOfBounds 0x1000) := by decide

/-- StepRunsTheDecodedInstruction at the last address that can be fetched. -/
theorem witness_step_decoded :
    ({ State.reset with pc := 0xFFE }.withFetchWord 16 0x6001).readByte 0xFFE = some 0x60 ∧
    ({ State.reset with pc := 0xFFE }.withFetchWord 16 0x6001).readByte 0xFFF = some 0x01 ∧
    decodeWord (wordOfBytes 0x60 0x01) = some (.ldByte 0 1) := by decide

/-- UnknownWordIsReportedAndSkipped: the word 0x00E1, one bit from CLS. -/
theorem witness_unknown :
    (State.reset.withFetchWord 16 0x00E1).readByte 0x200 = some 0x00 ∧
    (State.reset.withFetchWord 16 0x00E1).readByte 0x201 = some 0xE1 ∧
    ∀ row ∈ opcodeMap, wordOfBytes 0x00 0xE1 &&& row.1 ≠ row.2 := by
  have h : opcodeMap.all (fun row => decide (wordOfBytes 0x00 0xE1 &&& row.1 ≠ row.2)) = true := by decide
  exact ⟨by decide, by decide, fun row hr => of_decide_eq_true (List.all_eq_true.mp h row hr)⟩

/-- UnknownWordsAreTheListedOnes: a word of each clause, and words beside each that decode. -/
theorem witness_unknown_words :
    decodeWord 0x0FFF = none ∧ decodeWord 0x3000 = none ∧ decodeWord 0x5FFF = none ∧ decodeWord 0xFFFF = none ∧
    decodeWord 0x8FF8 = none ∧ decodeWord 0x8FFF = none ∧ (decodeWord 0x00E0).isSome = true ∧
    (decodeWord 0x2FFF).isSome = true ∧ (decodeWord 0x6000).isSome = true ∧ (decodeWord 0x8FF7).isSome = true ∧
    (decodeWord 0x8FFE).isSome = true := by decide

/-- EncodeOfDecodeIsTheWord and DecodeFollowsTheOpcodeMap: a word with a Y field that SHR ignores. -/
theorem witness_encode : decodeWord 0x80F6 = some (.shr 0 0xF) ∧ encode (.shr 0 0xF) = 0x80F6 ∧
    (0x80F6 : Word) &&& 0xF00F = 0x8006 := by decide

/-- PlacedWordIsFetched at the last address that can be fetched, and at an odd one. -/
theorem witness_placed : State.reset.MemWf ∧ State.FetchInMemory { State.reset with pc := 0xFFE } ∧
    State.FetchInMemory { State.reset with pc := 0x201 } :=
  ⟨Memory.reset_wf, by unfold State.FetchInMemory; decide, by unfold State.FetchInMemory; decide⟩

/-- FetchFaultsExactlyBeyondMemory: the first `pc` beyond, and the last within. -/
theorem witness_fetch_bounds : (0x0FFE < (0x0FFF : Word).toNat) ∧ ¬ (0x0FFE < (0x0FFE : Word).toNat) := by decide

/-- StepCompletesInBounds: a DRW whose last row is the last byte of memory. -/
theorem witness_step_completes :
    State.FetchInMemory ({ State.reset with i := 0xFFF }.withFetchWord 16 0xD011) ∧
    ∀ w x y n, ({ State.reset with i := 0xFFF }.withFetchWord 16 0xD011).fetchWord = some w →
      decodeWord w = some (.drw x y n) → ({ State.reset with i := 0xFFF }.withFetchWord 16 0xD011).SpriteInMemory n := by
  refine ⟨by unfold State.FetchInMemory; decide, fun w x y n hw hd => ?_⟩
  have hf : ({ State.reset with i := 0xFFF }.withFetchWord 16 0xD011).fetchWord = some 0xD011 := by decide
  rw [hf] at hw
  cases hw
  have hn : decodeWord 0xD011 = some (.drw 0 1 1) := by decide
  rw [hn] at hd
  cases hd
  exact .inr (by decide)

/-- LoadedProgramRunsFromItsFirstWord: the longest tail. -/
theorem witness_loaded : (List.replicate 3582 (0 : Byte)).length ≤ 3582 := by rw [List.length_replicate]

/-- ReturnPopsOrDoesNothing: the empty stack, one frame, and the full stack. -/
theorem witness_ret : State.reset.sp.val = 0 ∧ ({ State.reset with sp := 1 } : State).sp.val = 0 + 1 ∧
    ({ State.reset with sp := 16 } : State).sp.val = 15 + 1 := by decide

/-- ReturnPopsOrDoesNothing, last two clauses: a popped address beyond memory, and a RET after a CALL at depth 15. -/
theorem witness_ret_more :
    (nextOf (exec .ret { State.reset with sp := 1, stack := State.reset.stack.set 0 0x1000 })).map (fun t => t.pc) =
      some 0x1000 ∧
    (nextOf (exec (.call 0x300) { State.reset with sp := 15 })).isSome = true := by decide

/-- JumpSetsPc, third clause: a jump to 0xFFF. -/
theorem witness_jump_beyond : (nextOf (exec (.jp 0xFFF) State.reset)).map (fun t => t.pc) = some 0xFFF := by decide

/-- CallPushesOrDoesNothing: the full stack, the empty one, and one below full. -/
theorem witness_call : ({ State.reset with sp := 16 } : State).sp.val = 16 ∧ State.reset.sp.val = 0 ∧
    ({ State.reset with sp := 15 } : State).sp.val = 15 := by decide

/-- NestedCallsUnwind: sixteen nested calls from the empty stack. -/
theorem witness_nested : State.reset.sp.val + (List.replicate 15 (0x300 : AddrField)).length < 16 := by decide

/-- JumpSetsPc, the jump to its own address: C5. -/
theorem witness_self_jump : State.reset.pc.toNat = (0x200 : AddrField).toNat ∧
    (State.reset.withFetchWord 16 0x1200).fetchWord = some (BitVec.ofNat 16 (0x1000 + (0x200 : AddrField).toNat)) := by decide

/-- The flag writers' statements with X not 15, and SUB's two flag clauses at neighbouring operands. -/
theorem witness_flag_writers : (0 : Reg) ≠ vf ∧ (14 : Reg) ≠ vf ∧
    (withRegs [(0, 6), (1, 5)]).getV 0 > (withRegs [(0, 6), (1, 5)]).getV 1 ∧
    (withRegs [(0, 5), (1, 6)]).getV 0 < (withRegs [(0, 5), (1, 6)]).getV 1 := by decide

/-- EqualOperandsClearSubtractFlag: two registers with one value, one register, X = 15, and Y = 15. -/
theorem witness_equal_operands : (withRegs [(0, 0x33), (1, 0x33)]).getV 0 = (withRegs [(0, 0x33), (1, 0x33)]).getV 1 ∧
    State.reset.getV 7 = State.reset.getV 7 ∧
    (withRegs [(vf, 4), (1, 4)]).getV vf = (withRegs [(vf, 4), (1, 4)]).getV 1 ∧
    (withRegs [(0, 4), (vf, 4)]).getV 0 = (withRegs [(0, 4), (vf, 4)]).getV vf := by decide

/-- DrawXorsClippedSprite: height 0 beyond memory, and a last row at 0xFFF. -/
theorem witness_sprite_in_memory : (0 : Reg) ≠ vf ∧ (1 : Reg) ≠ vf ∧
    State.SpriteInMemory { State.reset with i := 0xFFFF } 0 ∧ State.SpriteInMemory { State.reset with i := 0xFF1 } 15 :=
  ⟨by decide, by decide, .inl (by decide), .inr (by decide)⟩

/-- DrawXorsClippedSprite: a covered cell that was set, so that both collision clauses are met by some state. -/
theorem witness_collision :
    (withSprite State.reset [0x80]).Covers 0 0 1 0 0 ∧
    Display.cell ({ withSprite State.reset [0x80] with display := Display.blank.toggle 0 } : State).display 0 = true ∧
    Display.cell (withSprite State.reset [0x80]).display 0 = false :=
  ⟨⟨by decide, by decide, 0, 0, by decide, by decide, by decide, by decide, by decide⟩, by decide, by decide⟩

/-- DrawReadsCoordinatesBeforeClearingVF: X = 15, and Y = 15. -/
theorem witness_draw_vf : (vf = vf ∨ (1 : Reg) = vf) ∧ ((1 : Reg) = vf ∨ vf = vf) ∧ State.SpriteInMemory State.reset 15 :=
  ⟨.inl rfl, .inr rfl, .inr (by decide)⟩

/-- DrawFaultsAtFirstRowBeyondMemory: `I` within memory, and `I` beyond it. -/
theorem witness_sprite_out : ¬ State.SpriteInMemory { State.reset with i := 0xFFF } 2 ∧
    ¬ State.SpriteInMemory { State.reset with i := 0x1000 } 1 := by
  constructor <;> unfold State.SpriteInMemory <;> decide

/-- DrawingTwiceErases: S6's sprite drawn twice, with a covered blank cell. -/
theorem witness_draw_twice :
    (nextOf (exec (.drw 0 1 2) (withSprite (withRegs [(0, 4), (1, 2)]) [0xA5, 0x81]))).map
      (fun t => ((t.getV 0).toNat % 64, (t.getV 1).toNat % 32, (nextOf (exec (.drw 0 1 2) t)).map (fun u => u.getV vf))) =
      some (4, 2, some 1) := by decide

/-- The whole-machine statements: an instruction that ends in a next state, one of each kind, and one that faults. -/
theorem witness_exec_next :
    (nextOf (exec .cls State.reset)).isSome = true ∧ (nextOf (exec (.ldI 0x300) State.reset)).isSome = true ∧
    (nextOf (exec (.addReg 0 1) State.reset)).isSome = true ∧ (nextOf (exec (.drw 0 1 1) State.reset)).isSome = true ∧
    (nextOf (exec (.call 0x300) State.reset)).isSome = true ∧
    faultOf (exec (.drw 0 1 1) { State.reset with i := 0x1000 }) = some (.dataOutOfBounds 0x1000) := by decide

/-- PcAfterEveryStep: a fetched word that decodes, and one that does not. -/
theorem witness_pc_after :
    (State.reset.withFetchWord 16 0x2300).fetchWord = some 0x2300 ∧ (stepWord State.reset 0x2300).isSome = true ∧
    decodeWord 0x2300 = some (.call 0x300) ∧ State.reset.fetchWord = some 0 ∧ decodeWord 0 = none := by decide

/-- ProgramsCannotObserveHostState: two states that differ in every part no instruction reads; both clauses are met. -/
theorem witness_host_state :
    SameProgramView State.reset { State.reset with keypad := Vector.replicate 16 true, dt := 9, st := 9, drawFlag := true } ∧
    (nextOf (step State.reset)).isSome = true ∧
    (faultOf (step { State.reset with pc := 0xFFF })).isSome = true := by
  refine ⟨⟨rfl, rfl, rfl, rfl, rfl, rfl, rfl, rfl, rfl, rfl⟩, by decide, by decide⟩

/-- The reset state satisfies the invariants, with a program word at its `pc` as well. -/
theorem witness_inv : State.reset.Inv where
  mem_wf := Memory.reset_wf
  i_le := by decide
  pc_le := by decide
  stack_le := by decide
  low_mem := fun a h => Memory.read_empty (Nat.lt_trans h (by decide))

/-- StepKeepsInvariants: the reset state steps. -/
theorem witness_inv_step : State.reset.Inv ∧ (nextOf (step State.reset)).isSome = true := ⟨witness_inv, by decide⟩

/-- CommandsKeepInvariants and ReachableStatesSatisfyInvariants: a running system with the invariants, reachable. -/
theorem witness_reachable : System.Holds State.Inv (.running State.reset) ∧
    System.Holds State.TimersZero (.running State.reset) ∧ Reachable Config.defaultFont 0 0 (.running State.reset) :=
  ⟨witness_inv, ⟨rfl, rfl⟩, Reachable.launch 0 (Vector.replicate 16 false) false⟩

/-- ReachableStatesSatisfyInvariants with timers that are not 0, at launch and after a tick (the values of R192's property). -/
theorem witness_reachable_timers :
    Reachable Config.defaultFont 10 5
      (command .tickTimers (.running (State.launch Config.defaultFont 0 (Vector.replicate 16 false) false 10 5))).1 ∧
    (command .tickTimers (.running (State.launch Config.defaultFont 0 (Vector.replicate 16 false) false 10 5))).1.state.dt = 9 :=
  ⟨Reachable.command _ _ (Reachable.launch 0 (Vector.replicate 16 false) false), by decide⟩

end Sys2Proof.Tests
end

section
/-! SUPPORT. What one instruction, one step and the command `step` do within memory: they complete (spec/60_exceptions.md
R180, R187), and an instruction that completes leaves what no instruction writes. -/

namespace Sys2Proof.Machine

/-! ### One instruction -/

/-- RET on a non-empty stack: the top address goes to `pc`, and `sp` is lowered by 1 (R121). -/
theorem execRet_nonempty {s : State} (h : 0 < s.sp.val) :
    execRet s = .next (State.setPc { s with sp := ⟨s.sp.val - 1, by omega⟩ } s.stack[s.sp.val - 1]) := by
  rw [execRet, State.pop_eq_some h]

/-- RET on an empty stack does nothing (R121, R182). -/
theorem execRet_empty {s : State} (h : ¬ 0 < s.sp.val) : execRet s = .next s := by
  rw [execRet, State.pop_eq_none h]

/-- CALL below the full stack pushes `pc` and jumps (R123). -/
theorem execCall_room (nnn : AddrField) {s : State} (h : s.sp.val < 16) :
    execCall nnn s = .next (State.setPc
      { s with stack := s.stack.set s.sp.val s.pc, sp := ⟨s.sp.val + 1, by omega⟩ } (zextAddr nnn)) := by
  rw [execCall, State.push_eq_some s.pc h]

/-- CALL on a full stack does nothing (R123, R182). -/
theorem execCall_full (nnn : AddrField) {s : State} (h : ¬ s.sp.val < 16) : execCall nnn s = .next s := by
  rw [execCall, State.push_eq_none s.pc h]

/-- DRW whose rows are all in memory: the canvas they leave becomes the display and VF, and the draw flag is set (R170). -/
theorem execDrw_rows_ok {x y : Reg} {n : Height} {s : State} {cv : Canvas}
    (h : drawRows s (s.startColumn x) (s.startRow y) n.toNat 0 ⟨s.display, false⟩ = .ok cv) :
    execDrw x y n s =
      .next (State.setDrawFlag (State.setV { s with display := cv.display } vf (flagByte cv.collision))) := by
  rw [execDrw, h]

/-- An instruction that is no DRW with a sprite beyond memory completes, and leaves memory, keypad, timers, FONT, the stream
and the report as they were (R34, R64, R187, R193). Only RET, CALL and DRW have more than one way to end. -/
theorem exec_completes {i : Instr} {s : State} (h : ∀ x y n, i = .drw x y n → s.SpriteInMemory n) :
    ∃ t, exec i s = .next t ∧ SameUntouchable s t ∧ t.mem = s.mem := by
  cases i with
  | ret =>
    by_cases hsp : 0 < s.sp.val
    · exact ⟨_, execRet_nonempty hsp, ⟨fun _ => rfl, rfl, rfl, rfl, rfl, rfl, rfl⟩, rfl⟩
    · exact ⟨_, execRet_empty hsp, ⟨fun _ => rfl, rfl, rfl, rfl, rfl, rfl, rfl⟩, rfl⟩
  | call nnn =>
    by_cases hsp : s.sp.val < 16
    · exact ⟨_, execCall_room nnn hsp, ⟨fun _ => rfl, rfl, rfl, rfl, rfl, rfl, rfl⟩, rfl⟩
    · exact ⟨_, execCall_full nnn hsp, ⟨fun _ => rfl, rfl, rfl, rfl, rfl, rfl, rfl⟩, rfl⟩
  | drw x y n =>
    obtain ⟨cv, hcv⟩ := drawRows_ok s (s.startColumn x) (s.startRow y) n.toNat 0 ⟨s.display, false⟩ (h x y n rfl)
    exact ⟨_, execDrw_rows_ok hcv, ⟨fun _ => rfl, rfl, rfl, rfl, rfl, rfl, rfl⟩, rfl⟩
  | _ => exact ⟨_, rfl, ⟨fun _ => rfl, rfl, rfl, rfl, rfl, rfl, rfl⟩, rfl⟩

/-! ### One step, and the command `step` -/

/-- A fetched word that is an instruction is executed, with `pc` past it and the report Ok (R90). -/
theorem step_of_decodes {s : State} {w : Word} {i : Instr} (hw : s.fetchWord = some w) (hd : decodeWord w = some i) :
    step s = exec i s.advance.reportOk := by
  simp only [step, hw, hd]

/-- A fetched word that is no instruction is reported, with `pc` past it (R99). -/
theorem step_of_unknown {s : State} {w : Word} (hw : s.fetchWord = some w) (hd : decodeWord w = none) :
    step s = .next (s.advance.reportUnknown w) := by
  simp only [step, hw, hd]

/-- A step within memory, of a word that is no DRW with a sprite beyond memory, completes with a report (R90, R180). -/
theorem step_completes {s : State} (hf : s.FetchInMemory)
    (hs : ∀ w x y n, s.fetchWord = some w → decodeWord w = some (.drw x y n) → s.SpriteInMemory n) :
    ∃ t r, step s = .next t ∧ t.report = some r := by
  obtain ⟨hi, lo, -, -, hw⟩ := State.fetchWord_in_memory hf
  cases hd : decodeWord (wordOfBytes hi lo) with
  | none => exact ⟨_, _, step_of_unknown hw hd, rfl⟩
  | some i =>
    have sprite : ∀ x y n, i = .drw x y n → s.advance.reportOk.SpriteInMemory n :=
      fun x y n e => hs _ x y n hw (e ▸ hd)
    obtain ⟨t, ht, ⟨-, -, -, -, -, -, report⟩, -⟩ := exec_completes sprite
    exact ⟨t, .ok, (step_of_decodes hw hd).trans ht, report⟩

/-- On a running machine the command `step` takes the step's next state and answers its report (R6). -/
theorem command_step_of_next {s t : State} (h : step s = .next t) :
    command .step (.running s) = (.running t, .stepped t.report) := by
  simp only [command, commandRunning, System.stepRunning, h]

/-- Settles O17: the step completes with a report, which the command returns. -/
theorem stepCompletesInBounds : Obligations.StepCompletesInBounds := by
  intro s hf hs
  obtain ⟨t, r, ht, hr⟩ := step_completes hf hs
  exact ⟨t, r, ht, hr, hr ▸ command_step_of_next ht⟩

end Sys2Proof.Machine
end

section
/-! SUPPORT. What one instruction and one step end in, and the statements on the parts of the state they follow for:
the writers of each part (spec/10_state.md R20, R25, R26, R28), the general registers (R21 to R23) and `pc` (R30). -/

namespace Sys2Proof.Machine

/-! ### What an instruction that completes ends in: the three with more than one way to end -/

/-- RET ends in the popped state or, on an empty stack, in the state it began in (R121, R182). -/
theorem execRet_next {s t : State} (h : execRet s = .next t) :
    (∃ hsp : 0 < s.sp.val, t = State.setPc { s with sp := ⟨s.sp.val - 1, by omega⟩ } s.stack[s.sp.val - 1]) ∨
      (¬ 0 < s.sp.val ∧ t = s) := by
  by_cases hsp : 0 < s.sp.val
  · rw [execRet_nonempty hsp] at h
    exact .inl ⟨hsp, (Host.Outcome.next.inj h).symm⟩
  · rw [execRet_empty hsp] at h
    exact .inr ⟨hsp, (Host.Outcome.next.inj h).symm⟩

/-- CALL ends in the pushed and jumped state or, on a full stack, in the state it began in (R123, R182). -/
theorem execCall_next {nnn : AddrField} {s t : State} (h : execCall nnn s = .next t) :
    (∃ hsp : s.sp.val < 16, t = State.setPc
      { s with stack := s.stack.set s.sp.val s.pc, sp := ⟨s.sp.val + 1, by omega⟩ } (zextAddr nnn)) ∨
      (¬ s.sp.val < 16 ∧ t = s) := by
  by_cases hsp : s.sp.val < 16
  · rw [execCall_room nnn hsp] at h
    exact .inl ⟨hsp, (Host.Outcome.next.inj h).symm⟩
  · rw [execCall_full nnn hsp] at h
    exact .inr ⟨hsp, (Host.Outcome.next.inj h).symm⟩

/-- DRW whose rows fault faults alike (R66). -/
theorem execDrw_rows_error {x y : Reg} {n : Height} {s : State} {f : Fault}
    (h : drawRows s (s.startColumn x) (s.startRow y) n.toNat 0 ⟨s.display, false⟩ = .error f) :
    execDrw x y n s = .fault f := by
  rw [execDrw, h]

/-- A DRW that completes writes the display, VF as a flag and the draw flag, from some canvas (R170, R175). -/
theorem execDrw_next {x y : Reg} {n : Height} {s t : State} (h : execDrw x y n s = .next t) :
    ∃ cv : Canvas, t = State.setDrawFlag (State.setV { s with display := cv.display } vf (flagByte cv.collision)) := by
  cases hcv : drawRows s (s.startColumn x) (s.startRow y) n.toNat 0 ⟨s.display, false⟩ with
  | ok cv =>
    rw [execDrw_rows_ok hcv] at h
    exact ⟨cv, (Host.Outcome.next.inj h).symm⟩
  | error f =>
    rw [execDrw_rows_error hcv] at h
    cases h

/-- A DRW that completes has its sprite in memory (R66, R172). -/
theorem spriteInMemory_of_execDrw_next {x y : Reg} {n : Height} {s t : State} (h : execDrw x y n s = .next t) :
    s.SpriteInMemory n := by
  by_contra hs
  obtain ⟨hn, hi⟩ := not_or.mp hs
  rw [execDrw_rows_error (drawRows_error s _ _ n.toNat 0 _ hn (by omega))] at h
  cases h

/-- An instruction that completes leaves what no instruction writes (R34, R64, R193). -/
theorem exec_next_untouched {i : Instr} {s t : State} (h : exec i s = .next t) :
    SameUntouchable s t ∧ t.mem = s.mem := by
  have sprite : ∀ x y n, i = .drw x y n → s.SpriteInMemory n := by
    rintro x y n rfl
    exact spriteInMemory_of_execDrw_next h
  obtain ⟨t', ht', kept⟩ := exec_completes sprite
  cases ht'.symm.trans h
  exact kept

/-! ### The writers of each part -/

/-- Settles O45: an instruction at a time, the part's writers being those whose end state names the part. -/
theorem eachPartHasItsWriters : Obligations.EachPartHasItsWriters := by
  intro i s t h
  cases i with
  | ret => obtain ⟨-, rfl⟩ | ⟨-, rfl⟩ := execRet_next h <;> simp
  | call nnn => obtain ⟨-, rfl⟩ | ⟨-, rfl⟩ := execCall_next h <;> simp
  | drw x y n => obtain ⟨cv, rfl⟩ := execDrw_next h; simp
  | _ => cases h; simp

/-! ### The general registers: four kinds of instruction, by the destination and the flag -/

/-- The five arithmetic and shift instructions write a flag, then their result (R24). -/
theorem exec_flag_and_dest {i : Instr} {x : Reg} (hf : writesFlag i = true) (hd : destReg i = some x) (s : State) :
    ∃ c b, exec i s = .next (s.writeFlagThenResult x (flagByte c) b) := by
  cases i with
  | addReg | sub | shr | subn | shl => cases hd; exact ⟨_, _, rfl⟩
  | drw => cases hd
  | _ => cases hf

/-- The flag writer with no destination, DRW, writes VF alone, as a flag (R22, R170). -/
theorem exec_flag_only {i : Instr} {s t : State} (hf : writesFlag i = true) (hd : destReg i = none)
    (h : exec i s = .next t) : SameVBut vf s t ∧ ∃ c, t.getV vf = flagByte c := by
  cases i with
  | drw x y n =>
    obtain ⟨cv, rfl⟩ := execDrw_next h
    exact ⟨fun r hr => State.getV_setV_ne _ _ hr, cv.collision, State.getV_setV_self _ _ _⟩
  | addReg | sub | shr | subn | shl => cases hd
  | _ => cases hf

/-- An instruction with a destination and no flag ends in one register write. -/
theorem exec_dest_only {i : Instr} {x : Reg} (hf : writesFlag i = false) (hd : destReg i = some x) (s : State) :
    ∃ (u : State) (b : Byte), u.v = s.v ∧ exec i s = .next (u.setV x b) := by
  cases i with
  | rnd => cases hd; exact ⟨s.draw8.2, _, rfl, rfl⟩
  | ldByte | addByte | ldReg | orReg | andReg | xorReg => cases hd; exact ⟨s, _, rfl, rfl⟩
  | addReg | sub | shr | subn | shl => cases hf
  | _ => cases hd

/-- An instruction with neither leaves all the registers. -/
theorem exec_no_dest_no_flag {i : Instr} {s t : State} (hf : writesFlag i = false) (hd : destReg i = none)
    (h : exec i s = .next t) : t.v = s.v := by
  cases i with
  | ret => obtain ⟨-, rfl⟩ | ⟨-, rfl⟩ := execRet_next h <;> rfl
  | call nnn => obtain ⟨-, rfl⟩ | ⟨-, rfl⟩ := execCall_next h <;> rfl
  | cls | jp | ldI => cases h; rfl
  | drw => cases hf
  | _ => cases hd

/-- Settles O46, for each of the four kinds of instruction. -/
theorem generalRegistersFrame : Obligations.GeneralRegistersFrame := by
  intro i s t h
  cases hf : writesFlag i with
  | false =>
    refine ⟨fun r hr _ => ?_, fun hf' => by cases hf'⟩
    cases hd : destReg i with
    | none => exact State.getV_congr (exec_no_dest_no_flag hf hd h) r
    | some x =>
      obtain ⟨u, b, hu, hexec⟩ := exec_dest_only hf hd s
      cases hexec.symm.trans h
      have hrx : r ≠ x := by rintro rfl; exact hr hd
      rw [State.getV_setV_ne u b hrx, State.getV_congr hu]
  | true =>
    cases hd : destReg i with
    | none =>
      obtain ⟨frame, c, hc⟩ := exec_flag_only hf hd h
      exact ⟨fun r _ hr => frame r fun e => by simpa using hr e, fun _ _ => hc ▸ flagByte_zero_or_one c⟩
    | some x =>
      obtain ⟨c, b, hexec⟩ := exec_flag_and_dest hf hd s
      cases hexec.symm.trans h
      refine ⟨fun r hr hvf => ?_, fun _ hx => ?_⟩
      · have hrx : r ≠ x := by rintro rfl; exact hr rfl
        exact State.writeFlagThenResult_getV_ne s _ _ hrx fun e => by simpa using hvf e
      · have hxvf : x ≠ vf := by rintro rfl; exact hx rfl
        rw [State.writeFlagThenResult_getV_vf s _ _ hxvf]
        exact flagByte_zero_or_one c

/-! ### What a step that completes ends in, and `pc` -/

/-- A fetch that answers a word was at `pc` up to 0xFFE (R183). -/
theorem pc_le_of_fetchWord {s : State} {w : Word} (h : s.fetchWord = some w) : s.pc.toNat ≤ 0x0FFE := by
  by_contra hpc
  rw [State.fetchWord_out_of_memory (by omega)] at h
  cases h

/-- A step that completes fetched a word within memory, and executed it or reported it (R90, R99). -/
theorem step_next_cases {s t : State} (h : step s = .next t) :
    ∃ w, s.fetchWord = some w ∧ s.pc.toNat ≤ 0x0FFE ∧
      ((∃ i, decodeWord w = some i ∧ exec i s.advance.reportOk = .next t) ∨
        (decodeWord w = none ∧ t = s.advance.reportUnknown w)) := by
  cases hw : s.fetchWord with
  | none =>
    simp only [step, hw] at h
    cases h
  | some w =>
    refine ⟨w, rfl, pc_le_of_fetchWord hw, ?_⟩
    cases hd : decodeWord w with
    | none =>
      rw [step_of_unknown hw hd] at h
      exact .inr ⟨rfl, (Host.Outcome.next.inj h).symm⟩
    | some i => exact .inl ⟨i, rfl, (step_of_decodes hw hd).symm.trans h⟩

/-- Within memory the fetch's advance does not wrap (R91). -/
theorem advance_pc_toNat {s : State} (h : s.pc.toNat ≤ 0x0FFE) : s.advance.pc.toNat = s.pc.toNat + 2 := by
  rw [State.advance_pc, BitVec.toNat_add]
  show (s.pc.toNat + 2) % 65536 = _
  omega

/-- The table of R30: only JP, CALL and RET leave `pc` elsewhere than past the fetched word. -/
theorem exec_pcAfter {i : Instr} {s t : State} (hpc : s.pc.toNat ≤ 0x0FFE)
    (h : exec i s.advance.reportOk = .next t) : t.pc.toNat = pcAfter i s := by
  cases i with
  | jp nnn => cases h; exact zextAddr_toNat nnn
  | call nnn =>
    obtain ⟨hsp, rfl⟩ | ⟨hsp, rfl⟩ := execCall_next h
    · exact (zextAddr_toNat nnn).trans (if_pos hsp).symm
    · exact (advance_pc_toNat hpc).trans (if_neg hsp).symm
  | ret =>
    obtain ⟨hsp, rfl⟩ | ⟨hsp, rfl⟩ := execRet_next h
    · rw [pcAfter, dif_pos (show 0 < s.sp.val from hsp)]
      rfl
    · rw [pcAfter, dif_neg (show ¬ 0 < s.sp.val from hsp)]
      exact advance_pc_toNat hpc
  | drw x y n =>
    obtain ⟨cv, rfl⟩ := execDrw_next h
    exact advance_pc_toNat hpc
  | _ => cases h; exact advance_pc_toNat hpc

/-- Settles O47: by the table for an instruction, by the advance for an unknown word. -/
theorem pcAfterEveryStep : Obligations.PcAfterEveryStep := by
  intro s t w hw h
  obtain ⟨w', hw', hpc, hcases⟩ := step_next_cases h
  cases hw.symm.trans hw'
  obtain ⟨i, hd, hexec⟩ | ⟨hd, rfl⟩ := hcases
  · refine ⟨fun j hj => ?_, fun hn => by cases hd.symm.trans hn⟩
    cases hd.symm.trans hj
    exact exec_pcAfter hpc hexec
  · exact ⟨fun i hi => (by cases hd.symm.trans hi), fun _ => advance_pc_toNat hpc⟩

end Sys2Proof.Machine
end

section
/-! SUPPORT. Noninterference: a step commutes with forgetting the keypad, the timers, the draw flag and the report
(spec/10_state.md R28, R34, spec/60_exceptions.md R193). -/

namespace Sys2Proof.Machine

/-- The state with what no program can observe at fixed values, those of State.reset. -/
def State.hideHost (s : State) : State :=
  { s with keypad := Vector.replicate 16 false, dt := 0, st := 0, drawFlag := false, report := none }

/-- Two states look alike to programs exactly when they are equal with the rest hidden. -/
theorem sameProgramView_iff (s t : State) : SameProgramView s t ↔ t.hideHost = s.hideHost := by
  simp [SameProgramView, State.hideHost]

/-- An outcome with what no program can observe of its next state hidden. -/
def hideHostOutcome : Host.Outcome State Fault Refusal → Host.Outcome State Fault Refusal
  | .next s => .next s.hideHost
  | .fault f => .fault f
  | .refused r => .refused r

theorem hideHostOutcome_eq_next {o : Host.Outcome State Fault Refusal} {u : State}
    (h : hideHostOutcome o = .next u) : ∃ t, o = .next t ∧ t.hideHost = u := by
  cases o with
  | next t => exact ⟨t, rfl, Host.Outcome.next.inj h⟩
  | _ => cases h

theorem hideHostOutcome_eq_fault {o : Host.Outcome State Fault Refusal} {f : Fault}
    (h : hideHostOutcome o = .fault f) : o = .fault f := by
  cases o with
  | fault g => exact h
  | _ => cases h

/-- No instruction reads what is hidden. RET and CALL branch on `sp`, DRW on the rows it reads, which are not hidden. -/
theorem exec_hideHost (i : Instr) (s : State) : hideHostOutcome (exec i s.hideHost) = hideHostOutcome (exec i s) := by
  cases i with
  | ret =>
    by_cases hsp : 0 < s.sp.val
    · rw [exec, exec, execRet_nonempty hsp, execRet_nonempty (s := s.hideHost) hsp]
      rfl
    · rw [exec, exec, execRet_empty hsp, execRet_empty (s := s.hideHost) hsp]
      rfl
  | call nnn =>
    by_cases hsp : s.sp.val < 16
    · rw [exec, exec, execCall_room nnn hsp, execCall_room (s := s.hideHost) nnn hsp]
      rfl
    · rw [exec, exec, execCall_full nnn hsp, execCall_full (s := s.hideHost) nnn hsp]
      rfl
  | drw x y n =>
    have rows := drawRows_congr (s := s) (t := s.hideHost) rfl rfl rfl (s.startColumn x) (s.startRow y) n.toNat 0
      ⟨s.display, false⟩
    cases hcv : drawRows s (s.startColumn x) (s.startRow y) n.toNat 0 ⟨s.display, false⟩ with
    | ok cv =>
      rw [exec, exec, execDrw_rows_ok hcv, execDrw_rows_ok (s := s.hideHost) (rows.trans hcv)]
      rfl
    | error f =>
      rw [exec, exec, execDrw_rows_error hcv, execDrw_rows_error (s := s.hideHost) (rows.trans hcv)]
  | _ => rfl

/-- No step reads what is hidden: neither its fetch nor the instruction it executes. -/
theorem step_hideHost (s : State) : hideHostOutcome (step s.hideHost) = hideHostOutcome (step s) := by
  have fetch : s.hideHost.fetchWord = s.fetchWord := rfl
  cases hw : s.fetchWord with
  | none =>
    rw [step, step, fetch, hw]
    rfl
  | some w =>
    cases hd : decodeWord w with
    | none =>
      rw [step_of_unknown hw hd, step_of_unknown (fetch.trans hw) hd]
      rfl
    | some i =>
      rw [step_of_decodes hw hd, step_of_decodes (fetch.trans hw) hd, ← exec_hideHost i s.advance.reportOk,
        ← exec_hideHost i s.hideHost.advance.reportOk]
      rfl

/-- Settles O48: states that look alike have one hidden form, and so have their steps. -/
theorem programsCannotObserveHostState : Obligations.ProgramsCannotObserveHostState := by
  intro s s' hview
  have same : hideHostOutcome (step s') = hideHostOutcome (step s) := by
    rw [← step_hideHost s', (sameProgramView_iff s s').mp hview, step_hideHost]
  refine ⟨fun t ht => ?_, fun f hf => ?_⟩
  · rw [ht] at same
    obtain ⟨t', ht', e⟩ := hideHostOutcome_eq_next same
    exact ⟨t', ht', (sameProgramView_iff t t').mpr e⟩
  · rw [hf] at same
    exact hideHostOutcome_eq_fault same

end Sys2Proof.Machine
end

section
/-! SUPPORT. The invariants of R40 (spec/10_state.md): of the launch states, of every step, of every command, and so of
every reachable state. -/

namespace Sys2Proof.Machine

/-! ### The reset and launch states -/

/-- The invariants read five parts of the state only. -/
theorem State.Inv.congr {s t : State} (h : s.Inv) (hm : t.mem = s.mem) (hf : t.font = s.font) (hi : t.i = s.i)
    (hpc : t.pc = s.pc) (hst : t.stack = s.stack) : t.Inv where
  mem_wf := by rw [State.MemWf, hm, hf]; exact h.mem_wf
  i_le := hi ▸ h.i_le
  pc_le := hpc ▸ h.pc_le
  stack_le := hst ▸ h.stack_le
  low_mem a ha := by rw [State.readByte_congr hm hf, hf, h.low_mem a ha]

/-- The invariants hold at the values R38 states, whatever the FONT. -/
theorem State.inv_of_reset_values {s : State} (hm : s.mem = []) (hi : s.i = 0) (hpc : s.pc = 0x200)
    (hst : s.stack = Vector.replicate 16 0) : s.Inv where
  mem_wf := by rw [State.MemWf, hm]; exact Memory.empty_wf _
  i_le := by simp [hi]
  pc_le := by simp [hpc]
  stack_le := by simp [hst]
  low_mem a ha := by
    rw [State.readByte, hm]
    exact Memory.read_empty (Nat.lt_trans ha (by decide))

theorem State.launch_inv (font : Config.Font) (stream : Nat) (keys : Vector Bool 16) (flag : Bool) (dt st : Byte) :
    (State.launch font stream keys flag dt st).Inv :=
  State.inv_of_reset_values rfl rfl rfl rfl

theorem State.resetFrom_inv (s : State) : s.resetFrom.Inv := State.inv_of_reset_values rfl rfl rfl rfl

/-- Settles O2: the values are those State.launch takes from State.reset. -/
theorem launchStatesSatisfyInvariants : Obligations.LaunchStatesSatisfyInvariants := by
  refine ⟨?_, rfl⟩
  rintro font stream keys flag dt st s rfl
  exact ⟨rfl, rfl, rfl, rfl, rfl, fun r => Vector.getElem_replicate r.isLt, fun k h => Vector.getElem_replicate h,
    fun k _ => Display.cell_blank k, fun j hj => Memory.read_empty_font font hj,
    fun a ha hout => Memory.read_empty_zero font ha hout, rfl, rfl, State.launch_inv font stream keys flag dt st⟩

/-! ### Every step -/

/-- `I` stays within 0xFFF: only LD I writes it, with an address field (R25). -/
theorem exec_i_le {i : Instr} {s t : State} (h : exec i s = .next t) (hi : s.i.toNat ≤ 0x0FFF) :
    t.i.toNat ≤ 0x0FFF := by
  obtain ⟨same_i, -⟩ := eachPartHasItsWriters i s t h
  cases i with
  | ldI nnn =>
    cases h
    rw [State.setI_i, zextAddr_toNat]
    exact Nat.le_pred_of_lt nnn.isLt
  | _ => rw [same_i (by simp)]; exact hi

/-- The stack's slots stay within 0x1000: only CALL writes one, with `pc` (R32). -/
theorem exec_stack_le {i : Instr} {s t : State} (h : exec i s = .next t) (hpc : s.pc.toNat ≤ 0x1000)
    (hst : ∀ k (h : k < 16), s.stack[k].toNat ≤ 0x1000) : ∀ k (h : k < 16), t.stack[k].toNat ≤ 0x1000 := by
  obtain ⟨-, same_stack, -⟩ := eachPartHasItsWriters i s t h
  cases i with
  | call nnn =>
    obtain ⟨hsp, rfl⟩ | ⟨-, rfl⟩ := execCall_next h
    · intro k hk
      simp only [State.setPc_stack, Vector.getElem_set]
      split
      · exact hpc
      · exact hst k hk
    · exact hst
  | _ => rw [(same_stack (by simp)).1]; exact hst

/-- `pc` stays within 0x1000: it is an address field, a stack slot, or past a word in memory (R30). -/
theorem pcAfter_le {s : State} (hs : s.Inv) (hpc : s.pc.toNat ≤ 0x0FFE) (i : Instr) : pcAfter i s ≤ 0x1000 := by
  cases i with
  | jp nnn => exact Nat.le_of_lt nnn.isLt
  | call nnn =>
    rw [pcAfter]
    split
    · exact Nat.le_of_lt nnn.isLt
    · omega
  | ret =>
    rw [pcAfter]
    split
    · exact hs.stack_le _ _
    · omega
  | _ => exact Nat.add_le_add_right hpc 2

/-- The invariants after the execution of a word fetched at `s.pc`. -/
theorem exec_keeps_inv {i : Instr} {s t : State} (hs : s.Inv) (hpc : s.pc.toNat ≤ 0x0FFE)
    (h : exec i s.advance.reportOk = .next t) : t.Inv := by
  obtain ⟨⟨reads, -, -, -, font, -⟩, mem⟩ := exec_next_untouched h
  have advanced : s.advance.pc.toNat ≤ 0x1000 := by rw [advance_pc_toNat hpc]; omega
  exact
    { mem_wf := by rw [State.MemWf, mem, font]; exact hs.mem_wf
      i_le := exec_i_le h hs.i_le
      pc_le := by rw [exec_pcAfter hpc h]; exact pcAfter_le hs hpc i
      stack_le := exec_stack_le h advanced hs.stack_le
      low_mem := fun a ha => by rw [reads, font]; exact hs.low_mem a ha }

theorem step_keeps_inv {s t : State} (hs : s.Inv) (h : step s = .next t) : t.Inv := by
  obtain ⟨w, -, hpc, ⟨i, -, hexec⟩ | ⟨-, rfl⟩⟩ := step_next_cases h
  · exact exec_keeps_inv hs hpc hexec
  · have advanced : s.advance.pc.toNat ≤ 0x1000 := by rw [advance_pc_toNat hpc]; omega
    exact { hs with pc_le := advanced }

theorem step_keeps_timers_font_stream {s t : State} (h : step s = .next t) :
    t.dt = s.dt ∧ t.st = s.st ∧ t.font = s.font ∧ t.stream = s.stream := by
  obtain ⟨w, -, -, ⟨i, -, hexec⟩ | ⟨-, rfl⟩⟩ := step_next_cases h
  · obtain ⟨⟨-, -, dt, st, font, stream, -⟩, -⟩ := exec_next_untouched hexec
    exact ⟨dt, st, font, stream⟩
  · exact ⟨rfl, rfl, rfl, rfl⟩

/-- Settles O49. -/
theorem stepKeepsInvariants : Obligations.StepKeepsInvariants :=
  fun _ _ hs h => ⟨step_keeps_inv hs h, step_keeps_timers_font_stream h⟩

/-! ### Every command -/

/-- A load that fits copies the bytes, one that does not changes nothing (R223, R224). -/
theorem State.loadProgram_cases (s : State) (bytes : List Byte) :
    (bytes.length ≤ 3584 ∧ (s.loadProgram bytes).2 = { s with mem := s.mem.writeBytes s.font 0x200 bytes }) ∨
      (s.loadProgram bytes).2 = s := by
  unfold State.loadProgram
  split
  · next fits => exact .inl ⟨of_decide_eq_true fits, rfl⟩
  · exact .inr rfl

/-- A load writes in canonical form, and nothing below 0x200 (R70, R223). -/
theorem State.loadProgram_inv {s : State} (hs : s.Inv) (bytes : List Byte) : (s.loadProgram bytes).2.Inv := by
  obtain ⟨fits, e⟩ | e := s.loadProgram_cases bytes
  · have low : ∀ a, a < 0x200 → (s.mem.writeBytes s.font 0x200 bytes).read s.font a = s.readByte a := by
      intro a ha
      rw [Memory.read_writeBytes hs.mem_wf _ _ (by show _ ≤ 0x1000; omega), dif_neg (by omega)]
      rfl
    rw [e]
    exact
      { hs with
        mem_wf := Memory.writeBytes_wf hs.mem_wf _ _
        low_mem := fun a ha => (low a ha).trans (hs.low_mem a ha) }
  · rw [e]
    exact hs

theorem tickDown_le (b : Byte) : (tickDown b).toNat ≤ b.toNat := by
  have := b.isLt
  rw [tickDown, BitVec.toNat_ofNat]
  omega

/-- A timer not above one at 0 is at 0. -/
theorem timer_eq_zero_of_le {b c : Byte} (h : b.toNat ≤ c.toNat) (hc : c = 0) : b = 0 := by
  subst hc
  exact BitVec.eq_of_toNat_eq (Nat.le_zero.mp h)

/-- What every move of a running machine to a running one keeps (R10, R40, R192, R193, R201). -/
structure KeepsInvariants (s t : State) : Prop where
  inv : s.Inv → t.Inv
  dt_le : t.dt.toNat ≤ s.dt.toNat
  st_le : t.st.toNat ≤ s.st.toNat
  font_eq : t.font = s.font
  stream_eq : t.stream = s.stream

theorem KeepsInvariants.timersZero {s t : State} (h : KeepsInvariants s t) : s.TimersZero → t.TimersZero :=
  fun ⟨hdt, hst⟩ => ⟨timer_eq_zero_of_le h.dt_le hdt, timer_eq_zero_of_le h.st_le hst⟩

theorem KeepsInvariants.refl (s : State) : KeepsInvariants s s := ⟨id, le_rfl, le_rfl, rfl, rfl⟩

theorem State.resetFrom_keeps (s : State) : KeepsInvariants s s.resetFrom :=
  ⟨fun _ => s.resetFrom_inv, Nat.zero_le _, Nat.zero_le _, rfl, rfl⟩

theorem State.loadProgram_keeps (s : State) (bytes : List Byte) : KeepsInvariants s (s.loadProgram bytes).2 := by
  have inv : s.Inv → (s.loadProgram bytes).2.Inv := fun hs => State.loadProgram_inv hs bytes
  obtain ⟨-, e⟩ | e := s.loadProgram_cases bytes <;> rw [e] at inv ⊢ <;> exact ⟨inv, le_rfl, le_rfl, rfl, rfl⟩

theorem State.tickTimers_keeps (s : State) : KeepsInvariants s s.tickTimers :=
  ⟨fun h => h.congr rfl rfl rfl rfl rfl, tickDown_le s.dt, tickDown_le s.st, rfl, rfl⟩

theorem State.clearDrawFlag_keeps (s : State) : KeepsInvariants s s.clearDrawFlag :=
  ⟨fun h => h.congr rfl rfl rfl rfl rfl, le_rfl, le_rfl, rfl, rfl⟩

theorem State.writeKeypad_keeps (s : State) (keys : Vector Bool 16) : KeepsInvariants s (s.writeKeypad keys) :=
  ⟨fun h => h.congr rfl rfl rfl rfl rfl, le_rfl, le_rfl, rfl, rfl⟩

theorem step_keeps {s t : State} (h : step s = .next t) : KeepsInvariants s t := by
  obtain ⟨dt, st, font, stream⟩ := step_keeps_timers_font_stream h
  exact ⟨fun hs => step_keeps_inv hs h, by rw [dt], by rw [st], font, stream⟩

/-- A running machine runs on in a state that keeps the invariants, or a fault stops it (R183, R184). -/
theorem command_running_cases (c : Command) (s : State) :
    (∃ t, (command c (.running s)).1 = .running t ∧ KeepsInvariants s t) ∨
      ∃ f, (command c (.running s)).1 = .stopped f s := by
  cases c with
  | reset => exact .inl ⟨_, rfl, s.resetFrom_keeps⟩
  | loadProgram bytes => exact .inl ⟨_, rfl, s.loadProgram_keeps bytes⟩
  | step =>
    simp only [command, commandRunning, System.stepRunning]
    split
    · next t ht => exact .inl ⟨t, rfl, step_keeps ht⟩
    · next f _ => exact .inr ⟨f, rfl⟩
    · exact .inl ⟨s, rfl, .refl s⟩
  | tickTimers => exact .inl ⟨_, rfl, s.tickTimers_keeps⟩
  | clearDrawFlag => exact .inl ⟨_, rfl, s.clearDrawFlag_keeps⟩
  | writeKeypad keys => exact .inl ⟨_, rfl, s.writeKeypad_keeps keys⟩
  | readCell | readDrawFlag | readSoundTimer => exact .inl ⟨s, rfl, .refl s⟩

/-- A stopped machine stays as it is, or `reset` revives it (R184, R220). -/
theorem command_stopped_cases (c : Command) (f : Fault) (s : State) :
    (command c (.stopped f s)).1 = .stopped f s ∨ (command c (.stopped f s)).1 = .running s.resetFrom := by
  cases c with
  | reset => exact .inr rfl
  | _ => exact .inl rfl

/-- Settles O50, for a running and for a stopped machine. -/
theorem commandsKeepInvariants : Obligations.CommandsKeepInvariants := by
  intro c m
  cases m with
  | running s =>
    obtain ⟨t, e, kept⟩ | ⟨f, e⟩ := command_running_cases c s <;> rw [e]
    · exact ⟨kept.inv, kept.timersZero, kept.dt_le, kept.st_le, kept.font_eq, kept.stream_eq⟩
    · exact ⟨fun _ => trivial, fun _ => trivial, le_rfl, le_rfl, rfl, rfl⟩
  | stopped f s =>
    obtain e | e := command_stopped_cases c f s <;> rw [e]
    · exact ⟨fun _ => trivial, fun _ => trivial, le_rfl, le_rfl, rfl, rfl⟩
    · exact ⟨fun _ => s.resetFrom_inv, fun _ => ⟨rfl, rfl⟩, Nat.zero_le _, Nat.zero_le _, rfl, rfl⟩

/-! ### Every reachable state -/

/-- By induction over the commands: the invariants, FONT, and timers not above their launch values. -/
theorem Reachable.holds_inv {font : Config.Font} {dt st : Byte} {m : System} (h : Reachable font dt st m) :
    m.Holds State.Inv ∧ m.state.font = font ∧ m.state.dt.toNat ≤ dt.toNat ∧ m.state.st.toNat ≤ st.toNat := by
  induction h with
  | launch stream keys flag => exact ⟨State.launch_inv font stream keys flag dt st, rfl, le_rfl, le_rfl⟩
  | command c m _ ih =>
    obtain ⟨inv, hfont, hdt, hst⟩ := ih
    obtain ⟨keeps_inv, -, dt_le, st_le, font_eq, -⟩ := commandsKeepInvariants c m
    exact ⟨keeps_inv inv, font_eq.trans hfont, dt_le.trans hdt, st_le.trans hst⟩

/-- Below 0x200 memory reads as `reset` left it (R40, R70). -/
theorem State.Inv.readByte_low {s : State} (h : s.Inv) {a : Nat} (ha : a < 0x200) :
    s.readByte a = Memory.read s.font [] a := by
  rw [h.low_mem a ha, Memory.read_empty (Nat.lt_trans ha (by decide))]

/-- Settles O51: the invariants of the running states reached, read off row by row. -/
theorem reachableStatesSatisfyInvariants : Obligations.ReachableStatesSatisfyInvariants := by
  intro font dt st m h
  obtain ⟨inv, rfl, hdt, hst⟩ := h.holds_inv
  cases m with
  | stopped f s => trivial
  | running s =>
    have hs : s.Inv := inv
    refine ⟨Nat.le_of_lt_succ s.sp.isLt, hs.i_le, hs.pc_le, hs.stack_le, fun a ha hout => ?_, fun j hj => ?_, hdt, hst,
      timer_eq_zero_of_le hdt, timer_eq_zero_of_le hst⟩
    · rw [hs.readByte_low ha]
      exact Memory.read_empty_zero s.font (Nat.lt_trans ha (by decide)) hout
    · rw [hs.readByte_low (by omega)]
      exact Memory.read_empty_font s.font hj

end Sys2Proof.Machine
end

section
/-! SUPPORT. The statements on main memory (spec/20_memory.md): the byte order of the fetch (R67), and that no instruction
writes memory, the keypad or a timer (R64). -/

namespace Sys2Proof.Machine

/-- A 16-bit word placed for the fetch is placed whole: cutting it to 16 bits loses nothing. -/
theorem State.withFetchWord_toNat (s : State) (w : Word) :
    s.withFetchWord 16 w.toNat = { s with mem := s.mem.writeWord s.font s.pc.toNat w } := by
  have whole : BitVec.ofNat 16 (w.toNat % 2 ^ 16) = w := by
    rw [Nat.mod_eq_of_lt w.isLt, BitVec.ofNat_toNat, BitVec.setWidth_eq]
  rw [State.withFetchWord, whole]

/-- Settles O15: the two bytes read back in the order in which they were written. -/
theorem placedWordIsFetched : Obligations.PlacedWordIsFetched := by
  intro s w hm hpc
  rw [State.withFetchWord_toNat]
  exact State.fetchWord_withFetchWord hm hpc w

/-- Settles O44: what an instruction that completes leaves as it was. -/
theorem noInstructionWritesMemoryKeypadTimers : Obligations.NoInstructionWritesMemoryKeypadTimers :=
  fun _ _ _ h => exec_next_untouched h

end Sys2Proof.Machine
end

section
/-! SUPPORT. The statements on encoding (spec/30_encoding.md): decode and encode undo each other, the decoder follows the opcode
map (R96) and leaves exactly R100's words unknown, and a step runs what it decodes (R90) or reports the word (R99). -/

namespace Sys2Proof

/-! ### Decoding an encoded instruction -/

/-- An instruction's word has its constructor's OP, and N in the 0x8 family, so that the decoder takes its arm and reads its
operands back from their fields (R93). -/
theorem decodeWord_encode (i : Instr) : decodeWord (encode i) = some i := by
  cases i with
  | cls | ret => rfl
  | jp | call | ldI => simp [encode, decodeWord]
  | ldByte | addByte | rnd => simp [encode, decodeWord]
  | ldReg | orReg | andReg | xorReg | addReg | sub | shr | subn | shl => simp [encode, decodeWord, decodeEight]
  | drw => simp [encode, decodeWord]

theorem decode_encodeBytes (i : Instr) (rest : List Byte) : decode (encodeBytes i ++ rest) = .ok (i, rest) := by
  simp [encodeBytes, decode, decodeWord_encode]

/-- Settles O12: the word form, and the byte form through the word that the two bytes make. -/
theorem decodeOfEncodeIsTheInstruction : Obligations.DecodeOfEncodeIsTheInstruction :=
  fun i => ⟨decodeWord_encode i, decode_encodeBytes i⟩

/-! ### Encoding a decoded word -/

/-- The word of a format is determined by its OP and the format's other fields; formats I and R likewise (R93, R101). -/
theorem formatA_of_fieldOP {w : Word} {op : BitVec 4} (h : fieldOP w = op) : formatA op (fieldNNN w) = w := by
  rw [← h, formatA_fields]

theorem formatI_of_fieldOP {w : Word} {op : BitVec 4} (h : fieldOP w = op) : formatI op (fieldX w) (fieldNN w) = w := by
  rw [← h, formatI_fields]

theorem formatR_of_fieldOP {w : Word} {op : BitVec 4} (h : fieldOP w = op) :
    formatR op (fieldX w) (fieldY w) (fieldN w) = w := by
  rw [← h, formatR_fields]

theorem formatR_of_fieldOP_fieldN {w : Word} {op n : BitVec 4} (h : fieldOP w = op) (hn : fieldN w = n) :
    formatR op (fieldX w) (fieldY w) n = w := by
  rw [← hn, formatR_of_fieldOP h]

theorem encode_of_decodeZero {w : Word} {i : Instr} (h : decodeZero w = some i) : encode i = w := by
  unfold decodeZero at h
  split at h
  · next hw => cases h; exact hw.symm
  · split at h
    · next hw => cases h; exact hw.symm
    · cases h

/-- Each arm of the 0x8 family keeps X and Y, and its instruction stands for N (R98). -/
theorem encode_of_decodeEight {w : Word} {i : Instr} (hop : fieldOP w = 0x8#4) (h : decodeEight w = some i) :
    encode i = w := by
  simp only [decodeEight] at h
  split at h
  case h_10 => cases h
  all_goals
    next hn =>
      cases h
      exact formatR_of_fieldOP_fieldN hop hn

/-- Each arm of the decoder keeps every field of its format, and a word is its fields (R93, R101). -/
theorem encode_of_decodeWord {w : Word} {i : Instr} (h : decodeWord w = some i) : encode i = w := by
  unfold decodeWord at h
  split at h <;> rename_i hop
  · exact encode_of_decodeZero h
  · cases h; exact formatA_of_fieldOP hop
  · cases h; exact formatA_of_fieldOP hop
  · cases h; exact formatI_of_fieldOP hop
  · cases h; exact formatI_of_fieldOP hop
  · exact encode_of_decodeEight hop h
  · cases h; exact formatA_of_fieldOP hop
  · cases h; exact formatI_of_fieldOP hop
  · cases h; exact formatR_of_fieldOP hop
  · cases h

/-- Settles O13: by the arm of the decoder that the word took. -/
theorem encodeOfDecodeIsTheWord : Obligations.EncodeOfDecodeIsTheWord :=
  fun _ _ h => encode_of_decodeWord h

/-! ### The opcode map (R96) -/

/-- The family RowMatch for every instruction: its word matches its row, and the row is in the map. -/
theorem rowMatch (i : Instr) : Laws.RowMatch.Statement i := by
  cases i with
  | cls => exact Laws.RowMatch.cls
  | ret => exact Laws.RowMatch.ret
  | jp nnn => exact Laws.RowMatch.jp nnn
  | call nnn => exact Laws.RowMatch.call nnn
  | ldByte x nn => exact Laws.RowMatch.ldByte x nn
  | addByte x nn => exact Laws.RowMatch.addByte x nn
  | ldReg x y => exact Laws.RowMatch.ldReg x y
  | orReg x y => exact Laws.RowMatch.orReg x y
  | andReg x y => exact Laws.RowMatch.andReg x y
  | xorReg x y => exact Laws.RowMatch.xorReg x y
  | addReg x y => exact Laws.RowMatch.addReg x y
  | sub x y => exact Laws.RowMatch.sub x y
  | shr x y => exact Laws.RowMatch.shr x y
  | subn x y => exact Laws.RowMatch.subn x y
  | shl x y => exact Laws.RowMatch.shl x y
  | ldI nnn => exact Laws.RowMatch.ldI nnn
  | rnd x nn => exact Laws.RowMatch.rnd x nn
  | drw x y n => exact Laws.RowMatch.drw x y n

/-- A word that decodes matches the row of its instruction, since it is that instruction's word. -/
theorem row_of_decodeWord {w : Word} {i : Instr} (h : decodeWord w = some i) :
    w &&& encodingMask i = encodingMatch i ∧ (encodingMask i, encodingMatch i) ∈ opcodeMap := by
  rw [← encode_of_decodeWord h]
  exact rowMatch i

/-- The word decodes to an instruction of this row. -/
def DecodesByRow (w : Word) (row : Word × Word) : Prop :=
  ∃ i, decodeWord w = some i ∧ (encodingMask i, encodingMatch i) = row

/-- Words that match a row of mask 0xFFFF are its value. -/
theorem decodesByRow_word {w v : Word} (h : w &&& 0xFFFF#16 = v) (hv : DecodesByRow v (0xFFFF#16, v)) :
    DecodesByRow w (0xFFFF#16, v) := by
  have whole : w &&& 0xFFFF#16 = w := BitVec.and_allOnes
  rwa [← whole, h]

/-- A word that matches a row of mask 0xF000 has the row's OP, so that it is an encoding with that OP (R95). -/
theorem decodesByRow_op {w : Word} {op : BitVec 4} {i : Instr} (h : w &&& 0xF000#16 = formatA op 0)
    (henc : fieldOP w = op → encode i = w)
    (hrow : (encodingMask i, encodingMatch i) = (0xF000#16, formatA op 0)) : DecodesByRow w (0xF000#16, formatA op 0) := by
  rw [Laws.RowMatch.mask_op] at h
  have hop : fieldOP w = op := by simpa using congrArg fieldOP h
  exact ⟨i, henc hop ▸ decodeWord_encode i, hrow⟩

/-- A word that matches a row of mask 0xF00F has OP 8 and the row's N, so that it is an encoding with both (R98). -/
theorem decodesByRow_op_n {w : Word} {n : BitVec 4} {i : Instr} (h : w &&& 0xF00F#16 = formatR 0x8#4 0 0 n)
    (henc : fieldOP w = 0x8#4 → fieldN w = n → encode i = w)
    (hrow : (encodingMask i, encodingMatch i) = (0xF00F#16, formatR 0x8#4 0 0 n)) :
    DecodesByRow w (0xF00F#16, formatR 0x8#4 0 0 n) := by
  rw [Laws.RowMatch.mask_op_n] at h
  have hop : fieldOP w = 0x8#4 := by simpa using congrArg fieldOP h
  have hn : fieldN w = n := by simpa using congrArg fieldN h
  exact ⟨i, henc hop hn ▸ decodeWord_encode i, hrow⟩

/-- Whatever matches a row of the map is the encoding of one of that row's instructions. -/
theorem decodesByRow_of_match {w : Word} {row : Word × Word} (hrow : row ∈ opcodeMap) (h : w &&& row.1 = row.2) :
    DecodesByRow w row := by
  simp only [opcodeMap, List.cons_append, List.nil_append, List.mem_cons, List.not_mem_nil, or_false] at hrow
  rcases hrow with rfl | rfl | rfl | rfl | rfl | rfl | rfl | rfl | rfl | rfl | rfl | rfl | rfl | rfl | rfl | rfl | rfl | rfl
  · exact decodesByRow_word h ⟨.cls, rfl, rfl⟩
  · exact decodesByRow_word h ⟨.ret, rfl, rfl⟩
  · exact decodesByRow_op (op := 0x1#4) (i := .jp (fieldNNN w)) h formatA_of_fieldOP rfl
  · exact decodesByRow_op (op := 0x2#4) (i := .call (fieldNNN w)) h formatA_of_fieldOP rfl
  · exact decodesByRow_op (op := 0x6#4) (i := .ldByte (fieldX w) (fieldNN w)) h formatI_of_fieldOP rfl
  · exact decodesByRow_op (op := 0x7#4) (i := .addByte (fieldX w) (fieldNN w)) h formatI_of_fieldOP rfl
  · exact decodesByRow_op_n (n := 0x0#4) (i := .ldReg (fieldX w) (fieldY w)) h formatR_of_fieldOP_fieldN rfl
  · exact decodesByRow_op_n (n := 0x1#4) (i := .orReg (fieldX w) (fieldY w)) h formatR_of_fieldOP_fieldN rfl
  · exact decodesByRow_op_n (n := 0x2#4) (i := .andReg (fieldX w) (fieldY w)) h formatR_of_fieldOP_fieldN rfl
  · exact decodesByRow_op_n (n := 0x3#4) (i := .xorReg (fieldX w) (fieldY w)) h formatR_of_fieldOP_fieldN rfl
  · exact decodesByRow_op_n (n := 0x4#4) (i := .addReg (fieldX w) (fieldY w)) h formatR_of_fieldOP_fieldN rfl
  · exact decodesByRow_op_n (n := 0x5#4) (i := .sub (fieldX w) (fieldY w)) h formatR_of_fieldOP_fieldN rfl
  · exact decodesByRow_op_n (n := 0x6#4) (i := .shr (fieldX w) (fieldY w)) h formatR_of_fieldOP_fieldN rfl
  · exact decodesByRow_op_n (n := 0x7#4) (i := .subn (fieldX w) (fieldY w)) h formatR_of_fieldOP_fieldN rfl
  · exact decodesByRow_op_n (n := 0xE#4) (i := .shl (fieldX w) (fieldY w)) h formatR_of_fieldOP_fieldN rfl
  · exact decodesByRow_op (op := 0xA#4) (i := .ldI (fieldNNN w)) h formatA_of_fieldOP rfl
  · exact decodesByRow_op (op := 0xC#4) (i := .rnd (fieldX w) (fieldNN w)) h formatI_of_fieldOP rfl
  · exact decodesByRow_op (op := 0xD#4) (i := .drw (fieldX w) (fieldY w) (fieldN w)) h formatR_of_fieldOP rfl

/-- A word decodes by one row at most, as it decodes to one instruction at most. -/
theorem DecodesByRow.unique {w : Word} {row row' : Word × Word} (h : DecodesByRow w row) (h' : DecodesByRow w row') :
    row = row' := by
  obtain ⟨i, hi, rfl⟩ := h
  obtain ⟨j, hj, rfl⟩ := h'
  cases hi.symm.trans hj
  rfl

/-- Settles O11: a word that decodes is an encoding, whose row is in the map; and a word that matches a row
decodes by that row. -/
theorem decodeFollowsTheOpcodeMap : Obligations.DecodeFollowsTheOpcodeMap := by
  intro w
  refine ⟨⟨fun ⟨i, hi⟩ => ?_, fun ⟨row, hrow, h⟩ => ?_⟩, fun row hrow row' hrow' h h' => ?_, fun i hi => ?_⟩
  · obtain ⟨hmatch, hmem⟩ := row_of_decodeWord hi
    exact ⟨_, hmem, hmatch⟩
  · obtain ⟨i, hi, -⟩ := decodesByRow_of_match hrow h
    exact ⟨i, hi⟩
  · exact (decodesByRow_of_match hrow h).unique (decodesByRow_of_match hrow' h')
  · exact (row_of_decodeWord hi).1

/-! ### The unknown words (R100) -/

theorem decodeZero_eq_none_iff (w : Word) : decodeZero w = none ↔ w.toNat ≠ 0x00E0 ∧ w.toNat ≠ 0x00EE := by
  have value (v : Word) : w = v ↔ w.toNat = v.toNat := BitVec.toNat_inj.symm
  unfold decodeZero
  split
  · next hcls => simp [hcls]
  · next hcls =>
    rw [value] at hcls
    split
    · next hret => simp [hret]
    · next hret =>
      rw [value] at hret
      exact iff_of_true rfl ⟨hcls, hret⟩

/-- The values of N that the 0x8 family's arms leave over (R98). -/
theorem unused_fieldN : ∀ n : BitVec 4, n ≠ 0x0#4 → n ≠ 0x1#4 → n ≠ 0x2#4 → n ≠ 0x3#4 → n ≠ 0x4#4 → n ≠ 0x5#4 →
    n ≠ 0x6#4 → n ≠ 0x7#4 → n ≠ 0xE#4 → n.toNat ∈ [8, 9, 0xA, 0xB, 0xC, 0xD, 0xF] := by decide

/-- The values of OP that the decoder's arms leave over (R95). -/
theorem unused_fieldOP : ∀ op : BitVec 4, op ≠ 0x0#4 → op ≠ 0x1#4 → op ≠ 0x2#4 → op ≠ 0x6#4 → op ≠ 0x7#4 → op ≠ 0x8#4 →
    op ≠ 0xA#4 → op ≠ 0xC#4 → op ≠ 0xD#4 → op.toNat ∈ [3, 4, 5, 9, 0xB, 0xE, 0xF] := by decide

theorem decodeEight_eq_none_iff (w : Word) :
    decodeEight w = none ↔ (fieldN w).toNat ∈ [8, 9, 0xA, 0xB, 0xC, 0xD, 0xF] := by
  simp only [decodeEight]
  split
  case h_10 h0 h1 h2 h3 h4 h5 h6 h7 hE => exact iff_of_true rfl (unused_fieldN _ h0 h1 h2 h3 h4 h5 h6 h7 hE)
  all_goals
    next hn => simp [hn]

/-- The decoder answers none in the two families that select further, and for an OP that no arm takes. -/
theorem decodeWord_eq_none_iff (w : Word) : decodeWord w = none ↔
    ((fieldOP w).toNat = 0 ∧ decodeZero w = none) ∨ (fieldOP w).toNat ∈ [3, 4, 5, 9, 0xB, 0xE, 0xF] ∨
    ((fieldOP w).toNat = 8 ∧ decodeEight w = none) := by
  unfold decodeWord
  split
  case h_10 h0 h1 h2 h6 h7 h8 hA hC hD =>
    exact iff_of_true rfl (.inr (.inl (unused_fieldOP _ h0 h1 h2 h6 h7 h8 hA hC hD)))
  all_goals
    next hop => simp [hop]

/-- Settles O10: the arms of the decoder, with OP and N read as numbers. -/
theorem unknownWordsAreTheListedOnes : Obligations.UnknownWordsAreTheListedOnes := by
  intro w
  have op : (fieldOP w).toNat = w.toNat / 4096 := by rw [fieldOP_toNat]; omega
  rw [decodeWord_eq_none_iff, decodeZero_eq_none_iff, decodeEight_eq_none_iff, op, fieldN_toNat]

/-- Settles O14: each word is the encoding of its instruction, and the last one has OP 0 and is neither CLS nor RET. -/
theorem sampleWordsDecodeAsWritten : Obligations.SampleWordsDecodeAsWritten :=
  ⟨decodeWord_encode (.jp 0x234), decodeWord_encode (.drw 5 0xA 7), decodeWord_encode .ret,
    decodeWord_encode (.shr 0 0xF), decodeWord_encode (.ldByte 0xA 0x2C), decodeWord_encode (.ldI 0x20E), by decide⟩

end Sys2Proof

namespace Sys2Proof.Machine

/-! ### The step (R90, R99) -/

/-- Settles O8: the two bytes are the fetched word. -/
theorem stepRunsTheDecodedInstruction : Obligations.StepRunsTheDecodedInstruction :=
  fun _ _ _ _ h1 h2 hd => step_of_decodes (State.fetchWord_eq_some h1 h2) hd

/-- Settles O9: a word that matches no row is unknown, since a word that decodes matches its instruction's row. -/
theorem unknownWordIsReportedAndSkipped : Obligations.UnknownWordIsReportedAndSkipped := by
  intro s hi lo h1 h2 norow
  have hw := State.fetchWord_eq_some h1 h2
  have unknown : decodeWord (wordOfBytes hi lo) = none := by
    rw [Option.eq_none_iff_forall_ne_some]
    intro i hdec
    obtain ⟨hmatch, hmem⟩ := row_of_decodeWord hdec
    exact norow _ hmem hmatch
  exact ⟨_, step_of_unknown hw unknown, advance_pc_toNat (pc_le_of_fetchWord hw), rfl, rfl⟩

end Sys2Proof.Machine
end

section
/-! SUPPORT. The statements on CLS, RET, JP and CALL (spec/40_screen_and_flow.md R120 to R123). -/

namespace Sys2Proof

/-- A word written as OP times 4096 plus an address is in format A (R93). -/
theorem ofNat_eq_formatA (op : BitVec 4) (nnn : AddrField) :
    BitVec.ofNat 16 (op.toNat * 4096 + nnn.toNat) = formatA op nnn := by
  rw [← formatA_toNat, BitVec.ofNat_toNat, BitVec.setWidth_eq]

theorem decodeWord_jp (nnn : AddrField) : decodeWord (BitVec.ofNat 16 (0x1000 + nnn.toNat)) = some (.jp nnn) :=
  (congrArg decodeWord (ofNat_eq_formatA 0x1#4 nnn)).trans (decodeWord_encode (.jp nnn))

theorem decodeWord_call (nnn : AddrField) : decodeWord (BitVec.ofNat 16 (0x2000 + nnn.toNat)) = some (.call nnn) :=
  (congrArg decodeWord (ofNat_eq_formatA 0x2#4 nnn)).trans (decodeWord_encode (.call nnn))

end Sys2Proof

namespace Sys2Proof.Machine

/-- A step that begins beyond memory faults (R183). -/
theorem step_out_of_memory {s : State} (h : 0x0FFE < s.pc.toNat) : step s = .fault (.fetchOutOfBounds s.pc) := by
  simp only [step, State.fetchWord_out_of_memory h]

/-- An instruction with no destination and no flag, as CLS, RET, JP and CALL are, leaves the registers and what no instruction
writes. -/
theorem exec_no_dest_no_flag_frame {i : Instr} {s t : State} (hf : writesFlag i = false) (hd : destReg i = none)
    (h : exec i s = .next t) : SameV s t ∧ SameUntouchable s t :=
  ⟨State.getV_congr (exec_no_dest_no_flag hf hd h), (exec_next_untouched h).1⟩

/-- Settles O19: the display is blank and the draw flag set, whatever they were. -/
theorem clearScreenBlanksDisplay : Obligations.ClearScreenBlanksDisplay := by
  refine ⟨decodeWord_encode .cls, fun s => ?_⟩
  have hexec : exec .cls s = .next (State.setDrawFlag { s with display := Display.blank }) := rfl
  obtain ⟨sameV, untouched⟩ := exec_no_dest_no_flag_frame rfl rfl hexec
  exact ⟨_, hexec, fun k _ => Display.cell_blank k, rfl, sameV, untouched, rfl, rfl, rfl, rfl, rfl⟩

/-- A RET met at any `pc` in the state a CALL ended in restores the address after the CALL, and `sp` (R121). -/
theorem execRet_after_execCall {nnn : AddrField} {s t : State} (hsp : s.sp.val < 16) (h : execCall nnn s = .next t)
    (p : Word) : ∃ u, execRet { t with pc := p } = .next u ∧ u.pc = s.pc ∧ u.sp = s.sp := by
  rw [execCall_room nnn hsp] at h
  cases h
  exact ⟨_, execRet_nonempty (Nat.succ_pos s.sp.val), Vector.getElem_set_self hsp, rfl⟩

/-- Settles O20: by the two ways in which RET ends. -/
theorem returnPopsOrDoesNothing : Obligations.ReturnPopsOrDoesNothing := by
  refine ⟨decodeWord_encode .ret, fun s hsp => execRet_empty (by omega), fun s k hk hsp => ?_,
    fun s t _ hpc => step_out_of_memory hpc, fun s t nnn p hsp h => execRet_after_execCall hsp h p⟩
  have nonempty : 0 < s.sp.val := by omega
  have hexec : exec .ret s = .next _ := execRet_nonempty nonempty
  obtain ⟨sameV, untouched⟩ := exec_no_dest_no_flag_frame rfl rfl hexec
  have top : s.sp.val - 1 = k := by omega
  refine ⟨_, hexec, top, ?_, rfl, sameV, untouched, rfl, rfl, rfl, rfl⟩
  simp only [State.setPc_pc, top]

/-- A JP to the address it was fetched from undoes the fetch's advance, so that only the report is new (R122). -/
theorem step_jp_self {s : State} {nnn : AddrField} (hpc : s.pc.toNat = nnn.toNat)
    (hw : s.fetchWord = some (BitVec.ofNat 16 (0x1000 + nnn.toNat))) : step s = .next { s with report := some .ok } := by
  have target : zextAddr nnn = s.pc := BitVec.eq_of_toNat_eq ((zextAddr_toNat nnn).trans hpc.symm)
  rw [step_of_decodes hw (decodeWord_jp nnn), exec, execJp, target]
  rfl

/-- Settles O21: the target is the zero-extended address field, for the jump beyond memory and for the self-jump as well. -/
theorem jumpSetsPc : Obligations.JumpSetsPc := by
  refine ⟨decodeWord_jp, fun nnn s => ?_, fun s t h => ?_, fun s nnn => step_jp_self⟩
  · have hexec : exec (.jp nnn) s = .next (s.setPc (zextAddr nnn)) := rfl
    obtain ⟨sameV, untouched⟩ := exec_no_dest_no_flag_frame rfl rfl hexec
    exact ⟨_, hexec, zextAddr_toNat nnn, sameV, untouched, rfl, rfl, rfl, rfl, rfl, rfl⟩
  · cases h
    exact step_out_of_memory (by decide : 0x0FFE < (zextAddr 0xFFF).toNat)

/-- Settles O22: by the two ways in which CALL ends. -/
theorem callPushesOrDoesNothing : Obligations.CallPushesOrDoesNothing := by
  refine ⟨decodeWord_call, fun nnn s hsp => execCall_full nnn (by omega), ?_⟩
  rintro nnn s _ hk rfl
  have hexec : exec (.call nnn) s = .next _ := execCall_room nnn hk
  obtain ⟨sameV, untouched⟩ := exec_no_dest_no_flag_frame rfl rfl hexec
  exact ⟨_, hexec, rfl, zextAddr_toNat nnn, rfl, sameV, untouched, rfl, rfl, rfl, rfl⟩

end Sys2Proof.Machine
end

section
/-! SUPPORT. The statements on LD Vx, byte and ADD Vx, byte (spec/41_immediate.md R130, R131). -/

namespace Sys2Proof

/-- A word written as OP times 4096 plus X times 256 plus a byte is in format I (R93). -/
theorem ofNat_eq_formatI (op : BitVec 4) (x : Reg) (nn : Byte) :
    BitVec.ofNat 16 (op.toNat * 4096 + 256 * x.val + nn.toNat) = formatI op x nn := by
  rw [Nat.mul_comm 256, ← formatI_toNat, BitVec.ofNat_toNat, BitVec.setWidth_eq]

theorem decodeWord_ldByte (x : Reg) (nn : Byte) :
    decodeWord (BitVec.ofNat 16 (0x6000 + 256 * x.val + nn.toNat)) = some (.ldByte x nn) :=
  (congrArg decodeWord (ofNat_eq_formatI 0x6#4 x nn)).trans (decodeWord_encode (.ldByte x nn))

theorem decodeWord_addByte (x : Reg) (nn : Byte) :
    decodeWord (BitVec.ofNat 16 (0x7000 + 256 * x.val + nn.toNat)) = some (.addByte x nn) :=
  (congrArg decodeWord (ofNat_eq_formatI 0x7#4 x nn)).trans (decodeWord_encode (.addByte x nn))

end Sys2Proof

namespace Sys2Proof.Machine

/-- A register write leaves the other registers, VF among them, and every other part of the state (R21). -/
theorem State.setV_frame (s : State) (x : Reg) (b : Byte) : SameVBut x s (s.setV x b) ∧ SameButV s (s.setV x b) :=
  ⟨fun _ hr => s.getV_setV_ne b hr, ⟨State.readByte_congr rfl rfl, rfl, rfl, rfl, rfl, rfl, rfl⟩,
    rfl, rfl, rfl, rfl, rfl, rfl, rfl⟩

/-- Settles O25: its one write is that of the wrapped sum to V[X], so that no carry is written. -/
theorem addImmediateWrapsWithoutFlag : Obligations.AddImmediateWrapsWithoutFlag := by
  refine fun x nn => ⟨decodeWord_addByte x nn, fun s => ?_⟩
  have hexec : exec (.addByte x nn) s = .next (s.setV x (wrapSum (s.getV x) nn)) := rfl
  have sum : ((s.setV x (wrapSum (s.getV x) nn)).getV x).toNat = ((s.getV x).toNat + nn.toNat) % 256 := by
    rw [State.getV_setV_self, wrapSum_toNat]
  exact ⟨_, hexec, sum, s.setV_frame x _⟩

/-- Settles O24: its one write is that of the byte to V[X]. -/
theorem loadImmediateSetsRegister : Obligations.LoadImmediateSetsRegister := by
  refine fun x nn => ⟨decodeWord_ldByte x nn, fun s => ?_⟩
  have hexec : exec (.ldByte x nn) s = .next (s.setV x nn) := rfl
  exact ⟨_, hexec, s.getV_setV_self x nn, s.setV_frame x nn⟩

end Sys2Proof.Machine
end

section
/-! SUPPORT. The statements on OR, AND, XOR and LD Vx, Vy of the 0x8 family (spec/42_alu.md R140 to R143). -/

namespace Sys2Proof

/-- A word written as OP times 4096 plus N, plus X times 256, plus Y times 16, is in format R (R93). -/
theorem ofNat_eq_formatR (op : BitVec 4) (x y : Reg) (n : BitVec 4) :
    BitVec.ofNat 16 (op.toNat * 4096 + n.toNat + 256 * x.val + 16 * y.val) = formatR op x y n := by
  have fields : op.toNat * 4096 + n.toNat + 256 * x.val + 16 * y.val = (formatR op x y n).toNat := by
    rw [formatR_toNat]
    omega
  rw [fields, BitVec.ofNat_toNat, BitVec.setWidth_eq]

/-- The word written with N in its last digit decodes to the instruction of the 0x8 family that N selects (R98). -/
theorem decodeWord_eight {i : Instr} {x y : Reg} {n : BitVec 4} (h : encode i = formatR 0x8#4 x y n) :
    decodeWord (BitVec.ofNat 16 ((0x8#4).toNat * 4096 + n.toNat + 256 * x.val + 16 * y.val)) = some i := by
  rw [ofNat_eq_formatR, ← h, decodeWord_encode]

end Sys2Proof

namespace Sys2Proof.Machine

/-- An instruction that combines V[X] and V[Y] into V[X] by an operation on bytes, itself bit by bit an operation on bits,
writes each bit so, and leaves VF with every other part of the state (R141 to R143). -/
theorem exec_bitwise {i : Instr} {x y : Reg} {op : Byte → Byte → Byte} {bit : Bool → Bool → Bool}
    (hexec : ∀ s : State, exec i s = .next (s.setV x (op (s.getV x) (s.getV y))))
    (hbit : ∀ (a b : Byte) (k : Nat), (op a b).getLsbD k = bit (a.getLsbD k) (b.getLsbD k)) (s : State) :
    ∃ t, exec i s = .next t ∧
      (∀ k, k < 8 → (t.getV x).getLsbD k = bit ((s.getV x).getLsbD k) ((s.getV y).getLsbD k)) ∧
      SameVBut x s t ∧ SameButV s t := by
  refine ⟨_, hexec s, fun k _ => ?_, s.setV_frame x _⟩
  rw [State.getV_setV_self, hbit]

/-- Settles O27: its one write is that of the bitwise OR to V[X]. -/
theorem orRegisters : Obligations.OrRegisters :=
  fun x y => ⟨decodeWord_eight (i := .orReg x y) (n := 0x1#4) rfl,
    exec_bitwise (op := (· ||| ·)) (bit := or) (fun _ => rfl) fun _ _ _ => BitVec.getLsbD_or⟩

/-- Settles O28: its one write is that of the bitwise AND to V[X]. -/
theorem andRegisters : Obligations.AndRegisters :=
  fun x y => ⟨decodeWord_eight (i := .andReg x y) (n := 0x2#4) rfl,
    exec_bitwise (op := (· &&& ·)) (bit := and) (fun _ => rfl) fun _ _ _ => BitVec.getLsbD_and⟩

/-- Settles O29: its one write is that of the bitwise exclusive OR to V[X]. -/
theorem xorRegisters : Obligations.XorRegisters :=
  fun x y => ⟨decodeWord_eight (i := .xorReg x y) (n := 0x3#4) rfl,
    exec_bitwise (op := (· ^^^ ·)) (bit := xor) (fun _ => rfl) fun _ _ _ => BitVec.getLsbD_xor⟩

/-- Settles O26: its one write is that of V[Y], read before it, to V[X]. -/
theorem copyRegister : Obligations.CopyRegister := by
  refine fun x y => ⟨decodeWord_eight (i := .ldReg x y) (n := 0x0#4) rfl, fun s => ?_⟩
  have hexec : exec (.ldReg x y) s = .next (s.setV x (s.getV y)) := rfl
  exact ⟨_, hexec, s.getV_setV_self x _, s.setV_frame x _⟩

end Sys2Proof.Machine
end

section
/-! SUPPORT. The statement on LD I, addr (spec/43_index_random.md R160). -/

namespace Sys2Proof

theorem decodeWord_ldI (nnn : AddrField) : decodeWord (BitVec.ofNat 16 (0xA000 + nnn.toNat)) = some (.ldI nnn) :=
  (congrArg decodeWord (ofNat_eq_formatA 0xA#4 nnn)).trans (decodeWord_encode (.ldI nnn))

end Sys2Proof

namespace Sys2Proof.Machine

/-- Settles O37: its one write is that of the zero-extended address to `I`, whatever the address. -/
theorem loadIndexSetsI : Obligations.LoadIndexSetsI := by
  refine fun nnn => ⟨decodeWord_ldI nnn, fun s => ?_⟩
  have hexec : exec (.ldI nnn) s = .next (s.setI (zextAddr nnn)) := rfl
  obtain ⟨sameV, untouched⟩ := exec_no_dest_no_flag_frame rfl rfl hexec
  exact ⟨_, hexec, zextAddr_toNat nnn, sameV, untouched, rfl, rfl, rfl, rfl, rfl, rfl⟩

end Sys2Proof.Machine
end

section
/-! SUPPORT. The statements on outcomes, timers and the host's accesses (spec/60_exceptions.md R180 to R198). -/

namespace Sys2Proof.Machine

/-! ### What an instruction and a step can fault with (R183, R184, R187) -/

/-- DRW with a sprite beyond memory faults at the first row above 0xFFF (R66). -/
theorem execDrw_out_of_memory {x y : Reg} {n : Height} {s : State} (h : ¬ s.SpriteInMemory n) :
    execDrw x y n s = .fault (.dataOutOfBounds (max s.i.toNat 0x1000)) := by
  obtain ⟨hn, hi⟩ := not_or.mp h
  exact execDrw_rows_error (drawRows_error s _ _ n.toNat 0 _ hn (by omega))

/-- An instruction completes, or it is a DRW whose sprite leaves memory and faults (R187). -/
theorem exec_cases (i : Instr) (s : State) :
    (∃ t, exec i s = .next t) ∨
      ∃ x y n, i = .drw x y n ∧ ¬ s.SpriteInMemory n ∧ exec i s = .fault (.dataOutOfBounds (max s.i.toNat 0x1000)) := by
  by_cases sprite : ∀ x y n, i = .drw x y n → s.SpriteInMemory n
  · exact .inl ((exec_completes sprite).imp fun _ => And.left)
  · push Not at sprite
    obtain ⟨x, y, n, rfl, hout⟩ := sprite
    exact .inr ⟨x, y, n, rfl, hout, execDrw_out_of_memory hout⟩

/-- An instruction that faults is a DRW whose sprite leaves memory, and the fault carries an address beyond it (R184). -/
theorem exec_fault {i : Instr} {s : State} {f : Fault} (h : exec i s = .fault f) :
    ∃ x y n a, i = .drw x y n ∧ ¬ s.SpriteInMemory n ∧ f = .dataOutOfBounds a ∧ 0x0FFF < a := by
  obtain ⟨t, ht⟩ | ⟨x, y, n, hi, hout, hf⟩ := exec_cases i s
  · cases h.symm.trans ht
  · cases h.symm.trans hf
    exact ⟨x, y, n, _, hi, hout, rfl, by omega⟩

/-- Settles O43: completion by `exec_completes`, the fault by `exec_fault`, and neither way to end is a refusal. -/
theorem onlyDrawCanFault : Obligations.OnlyDrawCanFault := by
  refine fun i s => ⟨fun sprite => (exec_completes sprite).imp fun _ => And.left, fun f => exec_fault, fun r h => ?_⟩
  obtain ⟨t, ht⟩ | ⟨_, _, _, -, -, hf⟩ := exec_cases i s
  · cases h.symm.trans ht
  · cases h.symm.trans hf

/-- Settles O16: beyond memory by `step_out_of_memory`; within it a fault is DRW's, which is no fault of the fetch. -/
theorem fetchFaultsExactlyBeyondMemory : Obligations.FetchFaultsExactlyBeyondMemory := by
  refine fun s p => ⟨fun h => ?_, fun ⟨hpc, hp⟩ => hp ▸ step_out_of_memory hpc⟩
  cases hw : s.fetchWord with
  | none =>
    have hpc := s.fetchWord_eq_none_iff.mp hw
    cases h.symm.trans (step_out_of_memory hpc)
    exact ⟨hpc, rfl⟩
  | some w =>
    cases hd : decodeWord w with
    | none => cases h.symm.trans (step_of_unknown hw hd)
    | some i =>
      obtain ⟨_, _, _, a, -, -, hf, -⟩ := exec_fault ((step_of_decodes hw hd).symm.trans h)
      cases hf

/-! ### The fault mark (R184) -/

/-- A stopped machine answers all but `reset` with its fault and stays as it is (R184). -/
theorem command_stopped {c : Command} (h : c ≠ .reset) (f : Fault) (s : State) :
    command c (.stopped f s) = (.stopped f s, .faulted f) := by
  cases c with
  | reset => exact absurd rfl h
  | _ => rfl

/-- By induction over the commands: without `reset` a stopped machine stays stopped. -/
theorem runCommands_stopped (f : Fault) (s : State) (cs : List Command) (h : Command.reset ∉ cs) :
    runCommands cs (.stopped f s) = .stopped f s := by
  induction cs with
  | nil => rfl
  | cons c cs ih =>
    obtain ⟨hc, hcs⟩ := List.ne_and_not_mem_of_not_mem_cons h
    rw [runCommands, command_stopped (Ne.symm hc)]
    exact ih hcs

/-- On a running machine a step that faults stops it (R183, R184). -/
theorem command_step_of_fault {s : State} {f : Fault} (h : step s = .fault f) :
    command .step (.running s) = (.stopped f s, .faulted f) := by
  simp only [command, commandRunning, System.stepRunning, h]

/-- Settles O7: the fault stops the machine, and of the commands only `reset` moves it on. -/
theorem faultStopsUntilReset : Obligations.FaultStopsUntilReset :=
  fun s f h => ⟨command_step_of_fault h, runCommands_stopped f s, s.resetFrom, rfl⟩

/-! ### The timers (R192 to R194) -/

theorem tickDown_toNat (b : Byte) : (tickDown b).toNat = b.toNat - 1 := by
  have := b.isLt
  rw [tickDown, BitVec.toNat_ofNat]
  omega

/-- Settles O4, by induction on the number of ticks, the first of them being taken from `s`. -/
theorem timersCountDownToZero : Obligations.TimersCountDownToZero := by
  intro k
  induction k with
  | zero => exact fun s => ⟨s, rfl, rfl, rfl, rfl⟩
  | succ k ih =>
    intro s
    obtain ⟨t, hrun, hdt, hst, frame⟩ := ih s.tickTimers
    refine ⟨t, hrun, ?_, ?_, frame⟩
    · rw [hdt, State.tickTimers_dt, tickDown_toNat, Nat.sub_sub, Nat.add_comm]
    · rw [hst, State.tickTimers_st, tickDown_toNat, Nat.sub_sub, Nat.add_comm]

/-- An instruction that completes does so after a tick as well, in the ticked state (R193). What RET and CALL branch on and
the rows DRW reads are as before the tick. -/
theorem exec_tickTimers {i : Instr} {s t : State} (h : exec i s = .next t) :
    exec i s.tickTimers = .next t.tickTimers := by
  cases i with
  | ret =>
    obtain ⟨hsp, rfl⟩ | ⟨hsp, rfl⟩ := execRet_next h
    · exact execRet_nonempty (s := s.tickTimers) hsp
    · exact execRet_empty hsp
  | call nnn =>
    obtain ⟨hsp, rfl⟩ | ⟨hsp, rfl⟩ := execCall_next h
    · exact execCall_room (s := s.tickTimers) nnn hsp
    · exact execCall_full nnn hsp
  | drw x y n =>
    have rows := drawRows_congr (s := s) (t := s.tickTimers) rfl rfl rfl (s.startColumn x) (s.startRow y) n.toNat 0
      ⟨s.display, false⟩
    cases hcv : drawRows s (s.startColumn x) (s.startRow y) n.toNat 0 ⟨s.display, false⟩ with
    | ok cv =>
      cases h.symm.trans (execDrw_rows_ok hcv)
      exact execDrw_rows_ok (s := s.tickTimers) (rows.trans hcv)
    | error f => cases h.symm.trans (execDrw_rows_error hcv)
  | _ => cases h; rfl

/-- A step that completes does so after a tick as well, in the ticked state (R194): the fetch reads no timer. -/
theorem step_tickTimers {s t : State} (h : step s = .next t) : step s.tickTimers = .next t.tickTimers := by
  obtain ⟨w, hw, -, ⟨i, hd, hexec⟩ | ⟨hd, rfl⟩⟩ := step_next_cases h
  · exact (step_of_decodes (s := s.tickTimers) hw hd).trans (exec_tickTimers hexec)
  · exact step_of_unknown (s := s.tickTimers) hw hd

/-- A program cannot tell a state from the state after a tick (R193). -/
theorem State.tickTimers_sameProgramView (s : State) : SameProgramView s s.tickTimers :=
  ⟨rfl, rfl, rfl, rfl, rfl, rfl, rfl, rfl, rfl, rfl⟩

/-- Settles O5: next states by `step_tickTimers`, faults because no program observes the tick. -/
theorem ticksCommuteWithSteps : Obligations.TicksCommuteWithSteps :=
  fun s => ⟨fun _ => step_tickTimers, (programsCannotObserveHostState s _ s.tickTimers_sameProgramView).2⟩

/-! ### The host's accesses (R195 to R198) -/

/-- The host's read of a cell is a bit of its row (R61, R195). -/
theorem State.hostCell_eq_getElem (s : State) (x : Fin 64) (y : Fin 32) :
    s.hostCell x y = s.display[y.val][x.val] := by
  rw [State.hostCell, Display.cell_cellIndex _ x.isLt y.isLt, BitVec.getLsbD_eq_getElem x.isLt]

/-- Settles O6: a cell is read as its row's bit; each other access is one field's read or write. -/
theorem hostAccessesTouchOnlyTheirPart : Obligations.HostAccessesTouchOnlyTheirPart := by
  refine fun s => ⟨fun x y => ?_, rfl, rfl, rfl, fun keys => rfl⟩
  rw [← s.hostCell_eq_getElem x y]
  rfl

end Sys2Proof.Machine
end

section
/-! SUPPORT. The statements on `reset` and `load program` (spec/70_reset_and_hazards.md R220, R223 to R225). -/

namespace Sys2Proof.Machine

/-! ### `load program` (R223, R224) -/

theorem State.loadProgram_of_fits (s : State) {bytes : List Byte} (h : bytes.length ≤ 3584) :
    s.loadProgram bytes = (.ok, { s with mem := s.mem.writeBytes s.font 0x200 bytes }) :=
  if_pos (decide_eq_true h)

theorem State.loadProgram_of_too_large (s : State) {bytes : List Byte} (h : 3584 < bytes.length) :
    s.loadProgram bytes = (.programTooLarge, s) :=
  if_neg fun fits => Nat.not_le.mpr h (of_decide_eq_true fits)

/-- Settles O3: a program that fits ends within memory, where a byte sequence written reads back and nothing else changes. -/
theorem loadProgramCopiesOrChangesNothing : Obligations.LoadProgramCopiesOrChangesNothing := by
  intro s bytes
  constructor
  · intro hm fits
    have reads := Memory.read_writeBytes hm 0x200 bytes (show 0x200 + bytes.length ≤ 0x1000 by omega)
    refine ⟨{ s with mem := s.mem.writeBytes s.font 0x200 bytes }, ?_, fun j hj => ?_, fun a ha => ?_, rfl⟩
    · rw [command, commandRunning, s.loadProgram_of_fits fits]
    · refine (reads (0x200 + j)).trans ?_
      simp only [Nat.le_add_right, Nat.add_sub_cancel_left, hj, and_self, dite_true]
    · exact (reads a).trans (dif_neg (by omega))
  · intro too_large
    rw [command, commandRunning, s.loadProgram_of_too_large too_large]

/-! ### The first step after a load (R225) -/

/-- Settles O18: the load puts the instruction's two bytes at 0x200 and 0x201, and leaves the launch state's `pc` at 0x200. -/
theorem loadedProgramRunsFromItsFirstWord : Obligations.LoadedProgramRunsFromItsFirstWord := by
  intro font stream keys flag dt st i rest hrest
  have fits : (encodeBytes i ++ rest).length ≤ 3584 := Nat.add_le_add_right hrest 2
  obtain ⟨t, loaded, reads, -, frame⟩ :=
    (loadProgramCopiesOrChangesNothing (State.launch font stream keys flag dt st) (encodeBytes i ++ rest)).1
      (State.launch_inv font stream keys flag dt st).mem_wf fits
  have hpc : t.pc = 0x200 := congrArg State.pc frame
  have hi : t.readByte t.pc.toNat = some (highByte (encode i)) := by rw [hpc]; exact reads 0 (Nat.zero_lt_succ _)
  have lo : t.readByte (t.pc.toNat + 1) = some (lowByte (encode i)) := by
    rw [hpc]
    exact reads 1 (Nat.succ_lt_succ (Nat.zero_lt_succ _))
  have decodes : decodeWord (wordOfBytes (highByte (encode i)) (lowByte (encode i))) = some i := by
    rw [wordOfBytes_bytes, decodeWord_encode]
  refine ⟨t, loaded, ?_⟩
  rw [stepRunsTheDecodedInstruction t _ _ i hi lo decodes, hpc]
  rfl

/-! ### `reset` (R220) -/

/-- `reset` runs a machine, running or stopped, from its reset state (R184, R220). -/
theorem command_reset (m : System) : command .reset m = (.running m.state.resetFrom, .none) := by
  cases m with
  | running s => rfl
  | stopped f s => rfl

/-- Settles O1: the values are those State.resetFrom takes from State.reset, whose memory lists nothing. -/
theorem resetSetsEveryStatedPart : Obligations.ResetSetsEveryStatedPart := by
  intro m
  exact ⟨m.state.resetFrom, command_reset m, fun r => Vector.getElem_replicate r.isLt,
    fun _ h => Vector.getElem_replicate h, fun k _ => Display.cell_blank k, rfl, rfl, rfl, rfl, rfl,
    fun _ hj => Memory.read_empty_font m.state.font hj, fun _ ha hout => Memory.read_empty_zero m.state.font ha hout⟩

end Sys2Proof.Machine
end

section
/-! SUPPORT. The statement on nested CALLs and the RETs that unwind them (spec/40_screen_and_flow.md R121, R123). -/

namespace Sys2Proof.Machine

/-- An instruction that completes hands its end state to the rest of the list. -/
theorem execAll_cons_of_next {i : Instr} {s t : State} (h : exec i s = .next t) (rest : List Instr) :
    execAll (i :: rest) s = execAll rest t := by
  rw [execAll, h]

theorem SameV.trans {s t u : State} (h : SameV s t) (h' : SameV t u) : SameV s u :=
  fun r => (h' r).trans (h r)

/-- CALLs that fit on the stack raise `sp` by their number, and leave the frames below it and the registers. -/
theorem execAll_calls (targets : List AddrField) : ∀ s : State, s.sp.val + targets.length ≤ 16 →
    ∃ t, execAll (targets.map .call) s = .next t ∧ t.sp.val = s.sp.val + targets.length ∧ SameV s t ∧
      ∀ k (h : k < 16), k < s.sp.val → t.stack[k] = s.stack[k] := by
  obtain ⟨-, -, pushes⟩ := callPushesOrDoesNothing
  induction targets with
  | nil => exact fun s _ => ⟨s, rfl, rfl, fun _ => rfl, fun _ _ _ => rfl⟩
  | cons target targets ih =>
    intro s fits
    rw [List.length_cons] at fits ⊢
    have room : s.sp.val < 16 := by omega
    obtain ⟨s', call, raised, -, pushed, same, -⟩ := pushes target s _ room rfl
    obtain ⟨t, calls, hsp, same', frames⟩ := ih s' (by omega)
    refine ⟨t, (execAll_cons_of_next call _).trans calls, by omega, same.trans same', fun k hk below => ?_⟩
    rw [frames k hk (by omega)]
    simp only [pushed]
    exact Vector.getElem_set_ne _ _ (Nat.ne_of_gt below)

/-- `n + 1` RETs from a stack of more than `n` frames end at the address in the last slot popped. -/
theorem execAll_rets (n : Nat) : ∀ (s : State) (k : Nat) (hk : k < 16), s.sp.val = k + n + 1 →
    ∃ u, execAll (List.replicate (n + 1) .ret) s = .next u ∧ u.pc = s.stack[k] ∧ u.sp.val = k ∧ SameV s u := by
  obtain ⟨-, -, pops, -⟩ := returnPopsOrDoesNothing
  induction n with
  | zero =>
    intro s k hk hsp
    obtain ⟨u, ret, lowered, popped, -, same, -⟩ := pops s k hk hsp
    exact ⟨u, execAll_cons_of_next ret [], popped, lowered, same⟩
  | succ n ih =>
    intro s k hk hsp
    obtain ⟨s', ret, lowered, -, kept, same, -⟩ := pops s (k + n + 1) (by omega) hsp
    obtain ⟨u, rets, hpc, hsp', same'⟩ := ih s' k hk lowered
    exact ⟨u, (execAll_cons_of_next ret _).trans rets, by simp only [hpc, kept], hsp', same.trans same'⟩

/-- Settles O23: the first CALL leaves its return address in slot `sp`, no inner CALL writes that slot, and it is the last
slot the RETs pop. -/
theorem nestedCallsUnwind : Obligations.NestedCallsUnwind := by
  intro s target inner fits
  obtain ⟨-, -, pushes⟩ := callPushesOrDoesNothing
  have room : s.sp.val < 16 := by omega
  obtain ⟨s', call, raised, -, pushed, same, -⟩ := pushes target s _ room rfl
  obtain ⟨t, calls, hsp, same', frames⟩ := execAll_calls inner s' (by omega)
  have depth : t.sp.val = s.sp.val + inner.length + 1 := by omega
  have first : t.stack[s.sp.val] = s.pc := by
    rw [frames _ room (by omega)]
    simp only [pushed, Vector.getElem_set_self]
  obtain ⟨u, rets, hpc, hsp', same''⟩ := execAll_rets inner.length t s.sp.val room depth
  exact ⟨t, (execAll_cons_of_next call _).trans calls, depth, u, rets, hpc.trans first, Fin.ext hsp',
    (same.trans same').trans same''⟩

end Sys2Proof.Machine
end

section
/-! SUPPORT. The statements on the five flag-writing instructions of the 0x8 family (spec/42_alu.md R144 to R150). -/

namespace Sys2Proof.Machine

/-! ### The flag and the result -/

theorem carryOut_eq (a b : Byte) : carryOut a b = if a.toNat + b.toNat > 255 then 1 else 0 := by
  simp only [carryOut, flagByte, decide_eq_true_eq]

theorem strictlyGreater_of_gt {a b : Byte} (h : a.toNat > b.toNat) : strictlyGreater a b = 1 := by
  rw [strictlyGreater, decide_eq_true h, flagByte_true]

theorem strictlyGreater_of_le {a b : Byte} (h : a.toNat ≤ b.toNat) : strictlyGreater a b = 0 := by
  rw [strictlyGreater, decide_eq_false (Nat.not_lt.mpr h), flagByte_false]

theorem wrapDiff_self (a : Byte) : wrapDiff a a = 0 := by
  rw [wrapDiff, Int.sub_self]
  rfl

/-- Bit 7 of a byte is set from 128 on. -/
theorem highBit_toNat_eq_ite (a : Byte) : (highBit a).toNat = if a.toNat ≥ 128 then 1 else 0 := by
  have := a.isLt
  rw [highBit_toNat]
  split <;> omega

/-- A flag and a result written leave every register but VF and the destination, and every other part of the state (R24). -/
theorem State.writeFlagThenResult_frame (s : State) (x : Reg) (flag result : Byte) :
    (∀ r, r ≠ x → r ≠ vf → (s.writeFlagThenResult x flag result).getV r = s.getV r) ∧
      SameButV s (s.writeFlagThenResult x flag result) :=
  ⟨fun _ hx hf => s.writeFlagThenResult_getV_ne flag result hx hf,
    ⟨State.readByte_congr rfl rfl, rfl, rfl, rfl, rfl, rfl, rfl⟩, rfl, rfl, rfl, rfl, rfl, rfl, rfl⟩

/-- With X not 15, an instruction that writes a flag and a result leaves the one in VF and the other in V[X] (R24). -/
theorem exec_flag_and_result {i : Instr} {x : Reg} {s : State} {flag result : Byte} (hx : x ≠ vf)
    (hexec : exec i s = .next (s.writeFlagThenResult x flag result)) :
    ∃ t, exec i s = .next t ∧ t.getV x = result ∧ t.getV vf = flag ∧
      (∀ r, r ≠ x → r ≠ vf → t.getV r = s.getV r) ∧ SameButV s t :=
  ⟨_, hexec, s.writeFlagThenResult_getV_self x flag result, s.writeFlagThenResult_getV_vf flag result hx,
    s.writeFlagThenResult_frame x flag result⟩

/-- With X = 15, an instruction that writes a flag and a result leaves the result in VF and all other registers (R24). -/
theorem exec_result_in_vf {i : Instr} {s : State} {flag result : Byte}
    (hexec : exec i s = .next (s.writeFlagThenResult vf flag result)) :
    ∃ t, exec i s = .next t ∧ t.getV vf = result ∧ SameVBut vf s t ∧ SameButV s t := by
  obtain ⟨others, rest⟩ := s.writeFlagThenResult_frame vf flag result
  exact ⟨_, hexec, s.writeFlagThenResult_getV_self vf flag result, fun r hr => others r hr hr, rest⟩

/-- A flag and a result both 0 leave 0 in V[X] and in VF, also where these are one register. -/
theorem exec_zero_flag_and_result {i : Instr} {x : Reg} {s : State} {flag result : Byte} (hf : flag = 0) (hr : result = 0)
    (hexec : exec i s = .next (s.writeFlagThenResult x flag result)) :
    ∃ t, exec i s = .next t ∧ t.getV x = 0 ∧ t.getV vf = 0 := by
  have hx := (s.writeFlagThenResult_getV_self x flag result).trans hr
  refine ⟨_, hexec, hx, ?_⟩
  by_cases h : x = vf
  · exact h ▸ hx
  · rw [s.writeFlagThenResult_getV_vf flag result h, hf]

/-! ### The instructions, X not 15 -/

/-- Settles O30: the flag is the carry, the result the wrapped sum. -/
theorem addRegistersSetsCarry : Obligations.AddRegistersSetsCarry := by
  refine fun x y => ⟨decodeWord_eight (i := .addReg x y) (n := 0x4#4) rfl, fun s hx => ?_⟩
  obtain ⟨t, hexec, result, flag, frame⟩ := exec_flag_and_result (i := .addReg x y) (s := s) hx rfl
  refine ⟨t, hexec, ?_, ?_, frame⟩
  · rw [result, wrapSum_toNat]
  · rw [flag, carryOut_eq]

/-- With X not 15, an instruction that subtracts `b` from `a` leaves the difference modulo 256 in V[X], and in VF whether `a`
is greater (R145, R147). -/
theorem exec_difference {i : Instr} {x : Reg} {s : State} {a b : Byte} (hx : x ≠ vf)
    (hexec : exec i s = .next (s.writeFlagThenResult x (strictlyGreater a b) (wrapDiff a b))) :
    ∃ t, exec i s = .next t ∧ ((t.getV x).toNat : Int) = ((a.toNat : Int) - (b.toNat : Int)) % 256 ∧
      (a.toNat > b.toNat → t.getV vf = 1) ∧ (a.toNat < b.toNat → t.getV vf = 0) ∧
      (∀ r, r ≠ x → r ≠ vf → t.getV r = s.getV r) ∧ SameButV s t := by
  obtain ⟨t, ht, result, flag, frame⟩ := exec_flag_and_result hx hexec
  refine ⟨t, ht, ?_, fun gt => ?_, fun lt => ?_, frame⟩
  · rw [result, wrapDiff_toInt]
  · rw [flag, strictlyGreater_of_gt gt]
  · rw [flag, strictlyGreater_of_le lt.le]

/-- Settles O31: the instruction subtracts V[Y] from V[X]. -/
theorem subtractSetsNoBorrow : Obligations.SubtractSetsNoBorrow :=
  fun x y => ⟨decodeWord_eight (i := .sub x y) (n := 0x5#4) rfl, fun _ hx => exec_difference hx rfl⟩

/-- Settles O32: the instruction subtracts V[X] from V[Y]. -/
theorem subtractReversedSetsNoBorrow : Obligations.SubtractReversedSetsNoBorrow :=
  fun x y => ⟨decodeWord_eight (i := .subn x y) (n := 0x7#4) rfl, fun _ hx => exec_difference hx rfl⟩

/-- Settles O33: the flag is the low bit, the result the halved byte. -/
theorem shiftRightSetsLowBit : Obligations.ShiftRightSetsLowBit := by
  refine fun x y => ⟨decodeWord_eight (i := .shr x y) (n := 0x6#4) rfl, fun s hx => ?_⟩
  obtain ⟨t, hexec, result, flag, frame⟩ := exec_flag_and_result (i := .shr x y) (s := s) hx rfl
  refine ⟨t, hexec, ?_, ?_, frame⟩
  · rw [result, shiftRight1_toNat]
  · rw [flag, lowBit_toNat]

/-- Settles O34: the flag is the high bit, the result the wrapped double. -/
theorem shiftLeftSetsHighBit : Obligations.ShiftLeftSetsHighBit := by
  refine fun x y => ⟨decodeWord_eight (i := .shl x y) (n := 0xE#4) rfl, fun s hx => ?_⟩
  obtain ⟨t, hexec, result, flag, frame⟩ := exec_flag_and_result (i := .shl x y) (s := s) hx rfl
  refine ⟨t, hexec, ?_, ?_, frame⟩
  · rw [result, shiftLeft1_toNat]
  · rw [flag, highBit_toNat_eq_ite]

/-! ### X = 15, and equal operands -/

/-- Settles O35: each of the five writes its result last, to VF. -/
theorem arithmeticResultOutlivesFlagInVF : Obligations.ArithmeticResultOutlivesFlagInVF := by
  intro y s
  obtain ⟨a, add, sum, frameA⟩ := exec_result_in_vf (i := .addReg vf y) (s := s) rfl
  obtain ⟨b, sub, diff, frameB⟩ := exec_result_in_vf (i := .sub vf y) (s := s) rfl
  obtain ⟨c, subn, rdiff, frameC⟩ := exec_result_in_vf (i := .subn vf y) (s := s) rfl
  obtain ⟨d, shr, half, frameD⟩ := exec_result_in_vf (i := .shr vf y) (s := s) rfl
  obtain ⟨e, shl, double, frameE⟩ := exec_result_in_vf (i := .shl vf y) (s := s) rfl
  exact ⟨⟨a, add, sum ▸ wrapSum_toNat _ _, frameA⟩, ⟨b, sub, diff ▸ wrapDiff_toInt _ _, frameB⟩,
    ⟨c, subn, rdiff ▸ wrapDiff_toInt _ _, frameC⟩, ⟨d, shr, half ▸ shiftRight1_toNat _, frameD⟩,
    ⟨e, shl, double ▸ shiftLeft1_toNat _, frameE⟩⟩

/-- Settles O36: neither operand is strictly greater, and the difference is 0. -/
theorem equalOperandsClearSubtractFlag : Obligations.EqualOperandsClearSubtractFlag := by
  intro x y s heq
  have flag {a b : Byte} (h : a = b) : strictlyGreater a b = 0 := strictlyGreater_of_le (h ▸ le_rfl)
  have result {a b : Byte} (h : a = b) : wrapDiff a b = 0 := h ▸ wrapDiff_self a
  exact ⟨exec_zero_flag_and_result (flag heq) (result heq) rfl,
    exec_zero_flag_and_result (flag heq.symm) (result heq.symm) rfl⟩

end Sys2Proof.Machine
end

section
/-! SUPPORT. The statement on RND Vx, byte (spec/43_index_random.md R161). -/

namespace Sys2Proof

theorem decodeWord_rnd (x : Reg) (nn : Byte) :
    decodeWord (BitVec.ofNat 16 (0xC000 + 256 * x.val + nn.toNat)) = some (.rnd x nn) :=
  (congrArg decodeWord (ofNat_eq_formatI 0xC#4 x nn)).trans (decodeWord_encode (.rnd x nn))

end Sys2Proof

namespace Sys2Proof.Machine

/-- Settles O38: a draw raises the draw's number alone, and the one other write is that of the masked byte to V[X]. -/
theorem randomMasksAFreeByte : Obligations.RandomMasksAFreeByte := by
  refine fun x nn => ⟨decodeWord_rnd x nn, fun s => ?_⟩
  have hexec : exec (.rnd x nn) s = .next (s.draw8.2.setV x (Config.randomByte s.stream s.draws &&& nn)) := rfl
  obtain ⟨others, untouched, hi, hpc, hsp, hstack, hdisplay, hflag, -⟩ := s.draw8.2.setV_frame x _
  exact ⟨_, hexec, State.getV_setV_self _ x _, rfl, others, untouched, hi, hpc, hsp, hstack, hdisplay, hflag⟩

end Sys2Proof.Machine
end

section
/-! SUPPORT. The statements on DRW Vx, Vy, n (spec/44_draw.md R170 to R176). -/

namespace Sys2Proof

theorem decodeWord_drw (x y : Reg) (n : Height) :
    decodeWord (BitVec.ofNat 16 (0xD000 + 256 * x.val + 16 * y.val + n.toNat)) = some (.drw x y n) := by
  have fields : 0xD000 + 256 * x.val + 16 * y.val + n.toNat =
      (0xD#4).toNat * 4096 + n.toNat + 256 * x.val + 16 * y.val := by
    rw [show (0xD#4).toNat * 4096 = 0xD000 from rfl]
    omega
  rw [fields, ofNat_eq_formatR]
  exact decodeWord_encode (.drw x y n)

end Sys2Proof

namespace Sys2Proof.Machine

/-! ### One draw -/

/-- The display and the collision flag that the rows of a sprite leave, in terms of the cells it covers (R170, R174). -/
theorem drawRows_covers {s : State} {x0 y0 : Nat} {n : Height} {d : Display} {cv : Canvas}
    (h : drawRows s x0 y0 n.toNat 0 ⟨d, false⟩ = .ok cv) :
    (∀ px py, px < 64 → py < 32 → (cv.display.cell (cellIndex px py) = true ↔
      (d.cell (cellIndex px py) = true ↔ ¬ s.Covers x0 y0 n px py))) ∧
    (cv.collision = true ↔ ∃ px py, s.Covers x0 y0 n px py ∧ d.cell (cellIndex px py) = true) := by
  constructor
  · intro px py hx hy
    rw [drawRows_cell s x0 y0 _ _ _ _ h px py hx hy, State.covers_iff_rows]
    simp only [hx, hy, true_and]
  · rw [drawRows_collision s x0 y0 _ _ _ _ h]
    simp only [State.covers_iff_rows, Bool.false_eq_true, false_or, and_assoc]

/-- A DRW that completes has the effect DrawEffect, whatever X and Y are: its coordinates are the registers' before it
(R171). -/
theorem drawEffect_of_execDrw {x y : Reg} {n : Height} {s t : State} (h : execDrw x y n s = .next t) :
    DrawEffect x y n s t := by
  cases hcv : drawRows s (s.startColumn x) (s.startRow y) n.toNat 0 ⟨s.display, false⟩ with
  | error f => cases h.symm.trans (execDrw_rows_error hcv)
  | ok cv =>
    cases h.symm.trans (execDrw_rows_ok hcv)
    obtain ⟨cells, collision⟩ := drawRows_covers hcv
    exact
      { cells := cells
        collision := fun hit => (State.getV_setV_self _ vf _).trans (congrArg flagByte (collision.mpr hit))
        noCollision := fun miss => (State.getV_setV_self _ vf _).trans
          (congrArg flagByte (Bool.eq_false_iff.mpr fun hit => miss (collision.mp hit)))
        drawFlag := rfl
        registers := fun _ hr => State.getV_setV_ne _ _ hr
        rest := ⟨⟨State.readByte_congr rfl rfl, rfl, rfl, rfl, rfl, rfl, rfl⟩, rfl, rfl, rfl, rfl, rfl⟩ }

/-- A DRW with its sprite in memory completes with the effect DrawEffect. -/
theorem exec_drw_effect {n : Height} {s : State} (hs : s.SpriteInMemory n) (x y : Reg) :
    ∃ t, exec (.drw x y n) s = .next t ∧ DrawEffect x y n s t := by
  obtain ⟨cv, hcv⟩ := drawRows_ok s (s.startColumn x) (s.startRow y) n.toNat 0 ⟨s.display, false⟩ hs
  exact ⟨_, execDrw_rows_ok hcv, drawEffect_of_execDrw (execDrw_rows_ok hcv)⟩

/-- Settles O39: DRW has its effect for every X and Y. -/
theorem drawXorsClippedSprite : Obligations.DrawXorsClippedSprite :=
  fun x y n => ⟨decodeWord_drw x y n, fun _ _ _ hs => exec_drw_effect hs x y⟩

/-- Settles O40: DRW has its effect for every X and Y, since it reads both coordinates before it writes VF. -/
theorem drawReadsCoordinatesBeforeClearingVF : Obligations.DrawReadsCoordinatesBeforeClearingVF :=
  fun x y _ _ _ hs => exec_drw_effect hs x y

/-- Settles O41: the first row beyond memory is at `I` or at 0x1000, whichever is higher. -/
theorem drawFaultsAtFirstRowBeyondMemory : Obligations.DrawFaultsAtFirstRowBeyondMemory := by
  intro x y n s hs
  have address : max s.i.toNat 0x1000 = if s.i.toNat < 0x1000 then 0x1000 else s.i.toNat := by
    split <;> omega
  rw [exec, execDrw_out_of_memory hs, address]

/-! ### Two draws (R176) -/

/-- The cells a sprite covers depend on `I`, memory and the start coordinates alone. -/
theorem State.covers_congr {s t : State} (hm : SameMemory s t) (hi : t.i = s.i) (x0 y0 : Nat) (n : Height) (px py : Nat) :
    t.Covers x0 y0 n px py ↔ s.Covers x0 y0 n px py := by
  have bit : t.spriteBit = s.spriteBit := by
    funext r c
    rw [State.spriteBit, State.spriteBit, hi, hm]
  rw [State.Covers, State.Covers, bit]

/-- Settles O42: the second draw covers the cells that the first one did, and toggles each back. -/
theorem drawingTwiceErases : Obligations.DrawingTwiceErases := by
  intro x y n s t u first hx hy second
  have one := drawEffect_of_execDrw first
  have two := drawEffect_of_execDrw second
  obtain ⟨⟨memory, -⟩, hi, -⟩ := one.rest
  have cells := two.cells
  have collision := two.collision
  simp only [hx, hy, State.covers_congr memory hi] at cells collision
  refine ⟨Display.ext_cell fun px py hpx hpy => ?_, fun ⟨px, py, covered, blank⟩ => ?_⟩
  · rw [Bool.eq_iff_iff, cellIndex, cells px py hpx hpy, one.cells px py hpx hpy]
    tauto
  · have ⟨hpx, hpy, _⟩ := covered
    refine collision ⟨px, py, covered, (one.cells px py hpx hpy).mpr ?_⟩
    rw [blank]
    exact iff_of_false Bool.false_ne_true (not_not_intro covered)

end Sys2Proof.Machine
end
